-- ==== Sys2Proof/Word.lean ====
section
/-! DEFINITION. The block's plain words: bytes, command words, header buffers. -/

namespace Sys2Proof

/-- The unit of addressing (R27). -/
abbrev Byte := BitVec 8

/-- A command word is exactly 16 bits (R47). -/
abbrev Word := BitVec 16

/-- `HDR_LEN`, the number of bytes in a header buffer (R7, R28). -/
abbrev hdrLen : Nat := 20

/-- A header buffer: exactly twenty bytes, offset 0 first (R27, R28). -/
abbrev Header := Vector Byte hdrLen

end Sys2Proof
end

