-- ==== Sys2Proof/Syntax.lean ====
section
/-! DEFINITION. The commands of the block, one constructor per row of the opcode table, and the fields
of a command word. -/

namespace Sys2Proof

/-- The commands of R56. -/
inductive Instr where
  /-- DECODE: field extraction and flag listing (R64). -/
  | decode
  /-- TRANSFORM: request to response (R71). -/
  | transform
  /-- SETFLAGS: the flags byte F and the booleans A and S of the command word (R49, R50, R83). -/
  | setFlags (f : Byte) (a s : Bool)
deriving DecidableEq, Repr

/-- The fields of a command word, legal or not (R46). -/
structure CommandFields where
  /-- CMD[1:0], the operation. -/
  op : BitVec 2
  /-- CMD[2]. -/
  a : Bool
  /-- CMD[3]. -/
  s : Bool
  /-- CMD[7:4], reserved. -/
  rsv : BitVec 4
  /-- CMD[15:8]. -/
  f : Byte
deriving DecidableEq, Repr

/-- The fields a command puts into its word: OP by R48, unused fields zero by R51. -/
def Instr.fields : Instr → CommandFields
  | .decode => { op := 0, a := false, s := false, rsv := 0, f := 0 }
  | .transform => { op := 1, a := false, s := false, rsv := 0, f := 0 }
  | .setFlags f a s => { op := 2, a := a, s := s, rsv := 0, f := f }

end Sys2Proof
end

