-- ==== Sys2Proof/WellFormed.lean ====
section
/-! DEFINITION. When the fields of a command word make a legal command (R51, R57), one check each. Every
term of `Instr` is a legal command, since its fields have the exact widths of the word; the ill-formed
terms are those of `CommandFields`. -/

namespace Sys2Proof

/-- OP is 0, 1 or 2; OP = 0b11 is reserved and illegal (R48). -/
def CommandFields.opAssigned (c : CommandFields) : Bool := c.op != 3

/-- RSV must be 0 for every operation (R51). -/
def CommandFields.reservedClear (c : CommandFields) : Bool := c.rsv == 0

/-- DECODE and TRANSFORM use none of A, S and F, and each must be 0 (R49, R50, R51). -/
def CommandFields.operandsClear (c : CommandFields) : Bool :=
  c.op == 2 || (!c.a && !c.s && c.f == 0)

/-- The fields of an assigned command word (R56, R57). -/
def CommandFields.wf (c : CommandFields) : Bool :=
  c.opAssigned && c.reservedClear && c.operandsClear

/-- A command is well formed when the fields it puts into its word are those of a legal word. -/
def Instr.wf (i : Instr) : Bool := i.fields.wf

end Sys2Proof
end

