-- ==== Sys2Proof/Decode.lean ====
section
/-! DEFINITION. The command decoder, total on any word, and after it the encoder. -/

namespace Sys2Proof

/-- Why a word is illegal (R57). Each is answered with ILLEGAL_COMMAND; the reason is not observable. -/
inductive DecodeError where
  /-- OP = 0b11 (R48). -/
  | reservedOperation
  /-- RSV is not 0 (R51). -/
  | reservedBitsSet
  /-- DECODE or TRANSFORM with A, S or F not 0 (R51). -/
  | operandBitsSet
deriving DecidableEq, Repr

/-- The fields of a word by R46's table. -/
def fieldsOf (w : Word) : CommandFields :=
  { op := w.extractLsb' 0 2
    a := w.getLsbD 2
    s := w.getLsbD 3
    rsv := w.extractLsb' 4 4
    f := w.extractLsb' 8 8 }

/-- The command that fields stand for, or why they stand for none (R48, R51, R57). -/
def commandOf (c : CommandFields) : Except DecodeError Instr :=
  if c.opAssigned = false then .error .reservedOperation
  else if c.reservedClear = false then .error .reservedBitsSet
  else if c.operandsClear = false then .error .operandBitsSet
  else if c.op = 0 then .ok .decode
  else if c.op = 1 then .ok .transform
  else .ok (.setFlags c.f c.a c.s)

/-- The decoder: from a 16-bit command word to its command (R46 to R51, R56, R57). -/
def decodeWord (w : Word) : Except DecodeError Instr := commandOf (fieldsOf w)

/-- The command word of `nbits` bits numbered as the opcode table numbers them; a wider value is no
command word (R47). -/
def tableWord (nbits w : Nat) : Option Word :=
  if w % 2 ^ nbits < 2 ^ 16 then some (BitVec.ofNat 16 (w % 2 ^ nbits)) else none

/-- What the decoder reads from a word given as a number, bit 0 its least significant bit. -/
def decodeTableWord (nbits w : Nat) : Option Instr :=
  match tableWord nbits w with
  | none => none
  | some cmd =>
    match decodeWord cmd with
    | .ok i => some i
    | .error _ => none

/-- A boolean as a one-bit value: 1 is true (R49). -/
def bitOf (b : Bool) : Word := if b then 1 else 0

/-- The command word of each command, by R56's patterns and R59's word for SETFLAGS. -/
def encode : Instr → Word
  | .decode => 0x0000
  | .transform => 0x0001
  | .setFlags f a s => (f.setWidth 16 <<< 8) ||| (bitOf s <<< 3) ||| (bitOf a <<< 2) ||| 0b10

end Sys2Proof
end

