-- ==== Sys2Proof/Machine/Constants.lean ====
section
/-! DEFINITION. The block's named constants with the document's literal values (R7, U5). -/

namespace Sys2Proof.Machine

/-- `OFF_SRC`: the source port, 2 bytes. -/
abbrev offSrc : Nat := 0
/-- `OFF_DST`: the destination port, 2 bytes. -/
abbrev offDst : Nat := 2
/-- `OFF_SEQ`: the sequence number, 4 bytes. -/
abbrev offSeq : Nat := 4
/-- `OFF_ACK`: the acknowledgement number, 4 bytes. -/
abbrev offAck : Nat := 8
/-- `OFF_RSV`: the reserved/offset byte, opaque (R31). -/
abbrev offRsv : Nat := 12
/-- `OFF_FLG`: the control-flags byte. -/
abbrev offFlg : Nat := 13
/-- `OFF_REM`: the first byte of the remainder, opaque (R31). -/
abbrev offRem : Nat := 14
/-- The length of the remainder, offsets 14 to 19 (R30). -/
abbrev remLen : Nat := 6
/-- `SEQ_INC`: added to the sequence number (R73). -/
abbrev seqInc : BitVec 32 := 1
/-- `PORT_TEST_BIT`: the bit of the source port that selects the scramble (R74). -/
abbrev portTestBit : Nat := 15
/-- `PORT_XOR`: the mask of the scramble (R74). -/
abbrev portXor : BitVec 16 := 0x1020
/-- `SYN_BIT`: the flags-byte bit TRANSFORM tests (R78). -/
abbrev synBit : Nat := 1
/-- `SYNACK_OR`: the mask ORed into the flags byte when SYN is set (R78). -/
abbrev synAckOr : Byte := 0x12
/-- `ED_A_MASK`: the Flag Editor's mask driven by A (R49, R84). -/
abbrev edAMask : Byte := 0x20
/-- `ED_S_MASK`: the Flag Editor's mask driven by S (R49, R84). -/
abbrev edSMask : Byte := 0x10

end Sys2Proof.Machine
end

