-- ==== Sys2Proof/Machine/Flags.lean ====
section
/-! DEFINITION. The flags byte at offset 13: its names, the listing of the active ones, and the two ways
the block computes a flags byte. The block has no condition codes of its own (R23). -/

namespace Sys2Proof.Machine

/-- The canonical flag names (R32, C2). -/
inductive FlagName where
  | URG
  | ACK
  | PSH
  | RST
  | SYN
  | FIN
deriving DecidableEq, Repr

/-- The bit of the flags byte that a name stands for (R32). -/
def FlagName.bit : FlagName → Nat
  | .URG => 5
  | .ACK => 4
  | .PSH => 3
  | .RST => 2
  | .SYN => 1
  | .FIN => 0

/-- The mask of a name (R32). -/
def FlagName.mask (n : FlagName) : Byte := 1 <<< n.bit

/-- `Name(i)` for the bits of ACTIVE (R66). -/
def flagNameOf : Fin 6 → FlagName
  | 5 => .URG
  | 4 => .ACK
  | 3 => .PSH
  | 2 => .RST
  | 1 => .SYN
  | 0 => .FIN

/-- ACTIVE: bits 5 to 0 of the flags byte (R64); bits 6 and 7 are never reported (R32). -/
def activeBits (flags : Byte) : BitVec 6 := flags.extractLsb' 0 6

/-- `ActiveList(active)`: one pass in descending bit order, appending each set bit's name (R66, R67). -/
def activeList (active : BitVec 6) : List FlagName :=
  ([5, 4, 3, 2, 1, 0] : List (Fin 6)).foldl
    (fun l (i : Fin 6) => if active.getLsbD i then l ++ [flagNameOf i] else l) []

/-- TRANSFORM's flags byte: SYN becomes SYN+ACK, any other byte is unchanged (R78). -/
def replyFlags (flags : Byte) : Byte :=
  if flags.getLsbD synBit then flags ||| synAckOr else flags

/-- One edit of the Flag Editor: the mask set or cleared (R84). -/
def editMask (mask : Byte) (want : Bool) (flags : Byte) : Byte :=
  if want then flags ||| mask else flags &&& ~~~mask

/-- SETFLAGS's byte function: A drives mask 0x20, then S drives mask 0x10 (R83, R84). -/
def editFlags (f : Byte) (a s : Bool) : Byte := editMask edSMask s (editMask edAMask a f)

end Sys2Proof.Machine
end

