-- ==== Sys2Proof/Machine/State.lean ====
section
/-! DEFINITION. The state of one instance of the block, its responses, and the reasons a model stops. -/

namespace Sys2Proof.Machine

/-- The outcome of a command (R52). -/
inductive Status where
  | ok
  | malformedHeader
  | illegalCommand
deriving DecidableEq, Repr

/-- The two error causes (R89, R90). -/
inductive Cause where
  /-- The request is not twenty bytes long (R89). -/
  | malformedHeader
  /-- The command word is not an assigned one (R90). -/
  | illegalCommand
deriving DecidableEq, Repr

/-- What a successful command returns, per operation (R53). -/
inductive Result where
  /-- DECODE: SRC_PORT, DST_PORT, SEQ, ACK and ACTIVE. -/
  | decoded (srcPort dstPort : BitVec 16) (seq ack : BitVec 32) (active : BitVec 6)
  /-- TRANSFORM: RESP. -/
  | header (resp : Header)
  /-- SETFLAGS: FLAGS_OUT. -/
  | flags (flagsOut : Byte)
deriving DecidableEq, Repr

/-- A response: a result exactly when the status is OK (R21, R22, R25). -/
inductive Response where
  | ok (result : Result)
  | error (cause : Cause)
deriving DecidableEq, Repr

/-- Which result the standing response carries (R21, R22). -/
inductive Carried where
  /-- A response whose status is not OK carries no result (R22). -/
  | nothing
  /-- SRC_PORT, DST_PORT, SEQ, ACK and ACTIVE are valid. -/
  | decoded
  /-- RESP is valid. -/
  | header
  /-- FLAGS_OUT is valid. -/
  | flags
deriving DecidableEq, Repr

/-- What the block is doing: at most one command is outstanding (R24). -/
inductive Phase where
  /-- No command outstanding and no response pending (R104). -/
  | idle
  /-- A command is outstanding, with the operands latched at issue (R20, R24). -/
  | executing (cmd : Word) (req : List Byte)
  /-- No command outstanding; the response to the last one stands on the output lines (R94). -/
  | answered (carried : Carried)
deriving DecidableEq, Repr

/-- Why a model around the block faults. No command of the block raises one (R93, R95): these are raised
by the models of the host script and of the platform for input the spec gives no meaning, and each is
safe (the model stops). -/
inductive Fault where
  /-- A script names a buffer that no statement has created. Raised by the script model; safe. -/
  | unknownBuffer
  /-- A script reads or writes a byte at or past the end of a buffer. Raised by the script model; safe. -/
  | indexOutsideBuffer
  /-- A script reads a variable that no statement has assigned. Raised by the script model; safe. -/
  | unknownVariable
  /-- A script branches to a label that names no statement. Raised by the script model; safe. -/
  | unknownLabel
  /-- A script goes on past its last statement without HALT. Raised by the script model; safe. -/
  | ranOffScript
  /-- A unit number at or above the number of units. Raised by the platform model; safe. -/
  | noSuchUnit
deriving DecidableEq, Repr

/-- Why a model has no step. -/
inductive Refusal where
  /-- An instruction whose meaning is not written. Raised by no arm of this model; safe. -/
  | notModelled (mnemonic : String)
  /-- The host issues while a command is outstanding: no step (R113, U9). Raised by `State.issue`; safe. -/
  | issueWhileOutstanding
  /-- The host reads a result after a response whose status is not OK: the result is absent, and a model
  refuses the read (R22, D9, U6). Raised by the script model's `System.readResult`; safe. -/
  | notCarried
deriving DecidableEq, Repr

/-- The state of one instance: its interface registers (R19), its hidden state (R24) and the model's own
stream and counter of free values. REQ_LEN is the length of `req` (R25, D7). -/
structure State where
  /-- CMD, the command word the host presents. -/
  cmd : Word
  /-- REQ, the request the host presents, with its true length. -/
  req : List Byte
  /-- The outstanding command with its latched operands, or what the standing response carries. -/
  phase : Phase
  /-- STATUS. -/
  status : BitVec 2
  /-- SRC_PORT. -/
  srcPort : BitVec 16
  /-- DST_PORT. -/
  dstPort : BitVec 16
  /-- SEQ. -/
  seq : BitVec 32
  /-- ACK. -/
  ack : BitVec 32
  /-- ACTIVE. -/
  active : BitVec 6
  /-- RESP. -/
  resp : Header
  /-- FLAGS_OUT. -/
  flagsOut : Byte
  /-- The model's own: how often the unspecified lines have taken free values (log entry 5). -/
  draws : Nat
  /-- The model's own: which stream of free values this instance draws from (log entry 5). -/
  stream : Nat
deriving DecidableEq, Repr

/-- After reset: idle, nothing outstanding, no response pending (R26, R104). The registers' values are
the model's (DESIGN CHOICE, log entries 2 to 5); no response carries them, so the host reads none of
them (R107). -/
def State.reset : State :=
  { cmd := 0
    req := []
    phase := .idle
    status := 0
    srcPort := 0
    dstPort := 0
    seq := 0
    ack := 0
    active := 0
    resp := Vector.replicate hdrLen 0
    flagsOut := 0
    draws := 0
    stream := 0 }

/-- The answer type of every operation that may have no step. -/
abbrev Answer := Host.Outcome State Fault Refusal

end Sys2Proof.Machine
end

