-- ==== Sys2Proof/Machine/Operands.lean ====
section
/-! DEFINITION. The field accesses of a header buffer: little-endian reads and writes at fixed byte
offsets (R11, R34 to R38). Every read carries the proof that it stays within offsets 0 to 19 (R20). -/

namespace Sys2Proof.Machine

/-- The length check: a request of any length but twenty is no header buffer (R28, R68, R80). -/
def headerOf (req : List Byte) : Option Header :=
  if h : req.length = hdrLen then some ⟨req.toArray, by simpa using h⟩ else none

/-- `buf[off]`. -/
def byteAt (buf : Header) (off : Nat) (h : off < hdrLen := by decide) : Byte := buf[off]'h

/-- `Rd16(buf, off)` (R35). -/
def rd16 (buf : Header) (off : Nat) (h : off + 1 < hdrLen := by decide) : BitVec 16 :=
  (byteAt buf off (by omega)).setWidth 16 ||| ((byteAt buf (off + 1) h).setWidth 16 <<< 8)

/-- `Rd32(buf, off)` (R36). -/
def rd32 (buf : Header) (off : Nat) (h : off + 3 < hdrLen := by decide) : BitVec 32 :=
  (byteAt buf off (by omega)).setWidth 32
    ||| ((byteAt buf (off + 1) (by omega)).setWidth 32 <<< 8)
    ||| ((byteAt buf (off + 2) (by omega)).setWidth 32 <<< 16)
    ||| ((byteAt buf (off + 3) h).setWidth 32 <<< 24)

/-- `MemRead(buf, off, n)`: the n bytes from offset off on (R11). -/
def memRead (buf : Header) (off n : Nat) : List Byte := (buf.toList.drop off).take n

/-- `MemWrite(resp, off, n, bytes)` as the cells it writes: bytes at off, off+1, … (R11). -/
def memWrite (off : Nat) : List Byte → List Host.Cell
  | [] => []
  | b :: bs => (off, b) :: memWrite (off + 1) bs

/-- `Wr16(off, v)` as the cells it writes (R37). -/
def wr16 (off : Nat) (v : BitVec 16) : List Host.Cell :=
  memWrite off [v.extractLsb' 0 8, v.extractLsb' 8 8]

/-- `Wr32(off, v)` as the cells it writes (R38). -/
def wr32 (off : Nat) (v : BitVec 32) : List Host.Cell :=
  memWrite off [v.extractLsb' 0 8, v.extractLsb' 8 8, v.extractLsb' 16 8, v.extractLsb' 24 8]

/-- One byte of the buffer being built. Cells at offsets above 19 do not occur (R27). -/
def storeCell (buf : Header) (c : Host.Cell) : Header := buf.setIfInBounds c.1 c.2

/-- The cells written one after the other. -/
def storeCells (buf : Header) (cells : List Host.Cell) : Header := cells.foldl storeCell buf

end Sys2Proof.Machine
end

