-- ==== Sys2Proof/Config.lean ====
section
/-! DEFINITION. What an implementation or a platform fixes (R8), and the free values: the values the
spec leaves unspecified. None has a body, so nothing can be proved about which value it is. -/

namespace Sys2Proof.Config

/-- How far `LEN_W` exceeds its least value 5 (R8). -/
opaque lenWBeyondFive : Nat

/-- `LEN_W`, the width in bits of the hardware REQ_LEN field, at least 5 (R8, D7). -/
def lenW : Nat := 5 + lenWBeyondFive

/-- A request length an implementation's REQ_LEN field can represent (U14). -/
def presentable (n : Nat) : Prop := n < 2 ^ lenW

/-- How far `N_INSTANCES` exceeds its least value 1 (R8). -/
opaque instancesBeyondOne : Nat

/-- `N_INSTANCES`, the number of independent blocks on a platform, at least 1 (R8, D20). -/
def nInstances : Nat := 1 + instancesBeyondOne

/-! `LATENCY` (R8, R115) is no constant: a session takes it as an argument of each command
(Machine/Session.lean, log entry 7). -/

/-! The free values of the output lines and, after a reset pulse, of the input ports (R26, U6, U7),
each a function of the stream and the draw counter of the state (log entry 5). -/

opaque freeStatus : Nat → Nat → BitVec 2
opaque freeSrcPort : Nat → Nat → BitVec 16
opaque freeDstPort : Nat → Nat → BitVec 16
opaque freeSeq : Nat → Nat → BitVec 32
opaque freeAck : Nat → Nat → BitVec 32
opaque freeActive : Nat → Nat → BitVec 6
opaque freeResp : Nat → Nat → Header
opaque freeFlagsOut : Nat → Nat → Byte
opaque freeCmd : Nat → Nat → Word
opaque freeReq : Nat → Nat → List Byte

/-! The free values of a host's reads that no response answers (U7, R107, R111), each a function of the
host model's own read counter (log entry 19). -/

opaque freeReadStatus : Nat → BitVec 2
opaque freeReadActive : Nat → BitVec 6
opaque freeReadFlagsOut : Nat → Byte

end Sys2Proof.Config
end

