-- ==== Sys2Proof/Machine/Ops.lean ====
section
/-! DEFINITION. The shared operations of the block: the host's port writes and its issue, the reset line,
putting a response on the output lines, raising an error, and the host's view of the lines. -/

namespace Sys2Proof.Machine

/-- REQ_LEN, the number of bytes in REQ (R19, R25). -/
def State.reqLen (s : State) : Nat := s.req.length

/-! Status codes (R52). -/

/-- The code of a status. -/
def Status.code : Status → BitVec 2
  | .ok => 0b00
  | .malformedHeader => 0b01
  | .illegalCommand => 0b10

/-- The status of a code; 0b11 is never returned and has no meaning (R52, U11). -/
def Status.ofCode (c : BitVec 2) : Option Status :=
  if c = 0b00 then some .ok
  else if c = 0b01 then some .malformedHeader
  else if c = 0b10 then some .illegalCommand
  else none

/-- The status an error cause is reported with (R89, R90). -/
def Cause.status : Cause → Status
  | .malformedHeader => .malformedHeader
  | .illegalCommand => .illegalCommand

/-- The STATUS of a response. -/
def Response.status : Response → Status
  | .ok _ => .ok
  | .error c => c.status

/-- The result of a response, absent when its status is not OK (R22). -/
def Response.result : Response → Option Result
  | .ok r => some r
  | .error _ => none

/-! The output lines. -/

/-- The output lines hold nothing the host may read: each takes a free value (R19, R26, U6, U7). -/
def State.release (s : State) : State :=
  { s with
    status := Config.freeStatus s.stream s.draws
    srcPort := Config.freeSrcPort s.stream s.draws
    dstPort := Config.freeDstPort s.stream s.draws
    seq := Config.freeSeq s.stream s.draws
    ack := Config.freeAck s.stream s.draws
    active := Config.freeActive s.stream s.draws
    resp := Config.freeResp s.stream s.draws
    flagsOut := Config.freeFlagsOut s.stream s.draws
    draws := s.draws + 1 }

/-- A result on the lines of its own operation, and what the response then carries (R21, R53). -/
def State.carry (r : Result) (s : State) : State :=
  match r with
  | .decoded srcPort dstPort seq ack active =>
    { s with
      phase := .answered .decoded
      srcPort := srcPort
      dstPort := dstPort
      seq := seq
      ack := ack
      active := active }
  | .header resp => { s with phase := .answered .header, resp := resp }
  | .flags flagsOut => { s with phase := .answered .flags, flagsOut := flagsOut }

/-- A successful response: STATUS = OK and the operation's own result; the block holds nothing else
afterwards (R21, R24, R53). -/
def State.succeed (r : Result) (s : State) : State :=
  { s.release with status := Status.ok.code }.carry r

/-- An error, the one shared operation for both causes: the status of the command's own response, and no
result. Nothing is saved and control moves nowhere (R22, R89, R90, R93). There is no return from it: the
block is idle and takes the next command (R94). -/
def State.raise (c : Cause) (s : State) : State :=
  { s.release with status := c.status.code, phase := .answered .nothing }

/-- A response put on the output lines. -/
def State.answer (r : Response) (s : State) : State :=
  match r with
  | .ok result => s.succeed result
  | .error c => s.raise c

/-- The step of an illegal word: no operand is read (R57, R90). -/
def State.rejectIllegal (s : State) : State := s.raise .illegalCommand

/-- The outstanding command answered by a function of its latched request (R15, R20). With no command
outstanding there is nothing to execute, and nothing changes (log entry 6). -/
def State.respond (f : List Byte → Response) (s : State) : Answer :=
  match s.phase with
  | .executing _ req => .next (s.answer (f req))
  | .idle => .next s
  | .answered _ => .next s

/-! The host's side of the ports. -/

/-- The host puts a command word on CMD (R20). -/
def State.writeCmd (w : Word) (s : State) : State := { s with cmd := w }

/-- The host puts a request on REQ, with its true length (R20, R108). -/
def State.writeReq (bytes : List Byte) (s : State) : State := { s with req := bytes }

/-- A command and its operands latched from the ports; an earlier response is gone (R20, R111).
DESIGN CHOICE (log entry 23; unsafe): CMD and REQ stay on the ports as the host left them, so an issue that
no new port write precedes latches the earlier word and request again. R19 lets none survive and R26 has
the host write them before each issue. -/
def State.latch (s : State) : State := { s.release with phase := .executing s.cmd s.req }

/-- The host issues the command on the ports. While one is outstanding there is no step (R113, U9). -/
def State.issue (s : State) : Answer :=
  match s.phase with
  | .executing _ _ => .refused .issueWhileOutstanding
  | .idle => .next s.latch
  | .answered _ => .next s.latch

/-- The reset line: idle, an outstanding command abandoned without a response, every port and line
unspecified (R26, R104, R105). DESIGN CHOICE (log entry 13): the free values depend on the stream and the
draw count alone; instances of one platform have different streams (log entry 12), so nothing relates
theirs. -/
def State.assertReset (s : State) : State :=
  { s.release with
    phase := .idle
    cmd := Config.freeCmd s.stream s.draws
    req := Config.freeReq s.stream s.draws }

/-- The result lines a response carries (R21). -/
def State.carriedResult (s : State) : Carried → Option Result
  | .nothing => none
  | .decoded => some (.decoded s.srcPort s.dstPort s.seq s.ack s.active)
  | .header => some (.header s.resp)
  | .flags => some (.flags s.flagsOut)

/-- What the host may read (R21, R22, R107, R111): nothing before a response; STATUS and, when it is OK,
the result of the response's own operation. -/
def State.response (s : State) : Option Response :=
  match s.phase with
  | .idle => none
  | .executing _ _ => none
  | .answered k =>
    match Status.ofCode s.status, s.carriedResult k with
    | some .ok, some r => some (.ok r)
    | some .malformedHeader, none => some (.error .malformedHeader)
    | some .illegalCommand, none => some (.error .illegalCommand)
    | _, _ => none

/-! Sequencing of operations that may have no step. -/

/-- `f` after `o`; a fault or a refusal of `o` stands. -/
def andThen {α β : Type} (o : Host.Outcome α Fault Refusal)
    (f : α → Host.Outcome β Fault Refusal) : Host.Outcome β Fault Refusal :=
  match o with
  | .next a => f a
  | .fault r => .fault r
  | .refused r => .refused r

end Sys2Proof.Machine
end

