-- ==== Sys2Proof/Machine/Decoder.lean ====
section
/-! DEFINITION. DECODE, the Decoder (spec/40_decoder.md). -/

namespace Sys2Proof.Machine

/-- The fields of a header buffer (R64, R65). -/
def decodeHeader (buf : Header) : Result :=
  .decoded (rd16 buf offSrc) (rd16 buf offDst) (rd32 buf offSeq) (rd32 buf offAck)
    (activeBits (byteAt buf offFlg))

/-- DECODE of a request: the length check first (R64, R68). -/
def decodeResponse (req : List Byte) : Response :=
  match headerOf req with
  | none => .error .malformedHeader
  | some buf => .ok (decodeHeader buf)

/-- DECODE (R64). -/
def execDecode (s : State) : Answer := s.respond decodeResponse

end Sys2Proof.Machine
end

