-- ==== Sys2Proof/Machine/FlagEditor.lean ====
section
/-! DEFINITION. SETFLAGS, the Flag Editor (spec/42_flag_editor.md). -/

namespace Sys2Proof.Machine

/-- SETFLAGS of the command word's F, A and S: it never fails, and REQ is ignored (R83). -/
def setFlagsResponse (f : Byte) (a s : Bool) : Response := .ok (.flags (editFlags f a s))

/-- SETFLAGS (R83). -/
def execSetFlags (f : Byte) (a s : Bool) (st : State) : Answer :=
  st.respond (fun _ => setFlagsResponse f a s)

end Sys2Proof.Machine
end

