-- ==== Sys2Proof/Machine/Transformer.lean ====
section
/-! DEFINITION. TRANSFORM, the Transformer (spec/41_transformer.md). -/

namespace Sys2Proof.Machine

/-- Step 3, the scramble of a source port with bit 15 set (R74). -/
def scramble (sp : BitVec 16) : BitVec 16 :=
  if sp.getLsbD portTestBit then sp ^^^ portXor else sp

/-- The writes of R71's pseudocode, in its order, each named by the rule of its step. -/
def responseWrites (buf : Header) : List Host.Cell :=
  let sp := rd16 buf offSrc
  let seq := rd32 buf offSeq
  -- R75
  memWrite offSrc (memRead buf offDst 2)
    ++ wr16 offDst (scramble sp)
    -- R73, R76
    ++ wr32 offSeq (seq + seqInc)
    -- R77
    ++ memWrite offAck (memRead buf offSeq 4)
    -- R79
    ++ [(offRsv, byteAt buf offRsv)]
    -- R78
    ++ [(offFlg, replyFlags (byteAt buf offFlg))]
    -- R79
    ++ memWrite offRem (memRead buf offRem remLen)

/-- The response built over a buffer of twenty bytes; every byte of it is written (R71, R72). -/
def transformInto (blank buf : Header) : Header := storeCells blank (responseWrites buf)

/-- TRANSFORM of a request into a response buffer: the length check first (R71, R80). -/
def transformResponse (blank : Header) (req : List Byte) : Response :=
  match headerOf req with
  | none => .error .malformedHeader
  | some buf => .ok (.header (transformInto blank buf))

/-- TRANSFORM (R71), built over the result register RESP (D13). -/
def execTransform (s : State) : Answer := s.respond (transformResponse s.resp)

end Sys2Proof.Machine
end

