-- ==== Sys2Proof/Machine/Dispatch.lean ====
section
/-! DEFINITION. The dispatch of R55: each command to its meaning. -/

namespace Sys2Proof.Machine

def exec (i : Instr) (s : State) : Host.Outcome State Fault Refusal :=
  match i with
  | .decode => Sys2Proof.Machine.execDecode s
  | .transform => Sys2Proof.Machine.execTransform s
  | .setFlags f wantA wantS => Sys2Proof.Machine.execSetFlags f wantA wantS s

end Sys2Proof.Machine
end

