-- ==== Sys2Proof/Machine/Step.lean ====
section
/-! DEFINITION. The block's one step: the execution of the outstanding command (R15, R55). -/

namespace Sys2Proof.Machine

/-- The outstanding command is decoded and executed; the legality test comes before any operand is read
(R55, R92). With no command outstanding the block is idle and stays as it is (R94, R104; log entry 6). -/
def step (s : State) : Host.Outcome State Fault Refusal :=
  match s.phase with
  | .executing cmd _ =>
    match decodeWord cmd with
    | .ok i => exec i s
    | .error _ => .next s.rejectIllegal
  | .idle => .next s
  | .answered _ => .next s

/-- The block takes commands from its port, not from a memory (R17, D25): the next step runs the
outstanding command. So the word is placed on CMD and latched with the request on REQ (log entry 9). A
value wider than a command word is cut to 16 bits (R47). -/
def State.withFetchWord (s : State) (nbits w : Nat) : State :=
  { s with
    cmd := BitVec.ofNat 16 (w % 2 ^ nbits)
    phase := .executing (BitVec.ofNat 16 (w % 2 ^ nbits)) s.req }

end Sys2Proof.Machine
end

