-- ==== Sys2Proof/Machine/Platform.lean ====
section
/-! DEFINITION. A platform of several instances, the product of independent single-instance models
(R101, D20). -/

namespace Sys2Proof.Machine

/-- The instances of a platform; they have no architectural identifiers, so a unit is a place in the
list (R101). -/
structure Platform where
  units : List State
deriving DecidableEq, Repr

/-- Every instance starts idle (R101), each with its own stream of free values (log entry 12). -/
def Platform.reset : Platform :=
  { units := (List.range Config.nInstances).map fun k => { State.reset with stream := k } }

/-- An operation of one instance (a step, an issue, …) inside the platform. -/
def Platform.onUnit (k : Nat) (op : State → Answer) (p : Platform) :
    Host.Outcome Platform Fault Refusal :=
  match p.units[k]? with
  | none => .fault .noSuchUnit
  | some s => andThen (op s) fun t => .next { units := p.units.set k t }

/-- One instance executes its outstanding command. -/
def Platform.step (k : Nat) (p : Platform) : Host.Outcome Platform Fault Refusal :=
  p.onUnit k Machine.step

/-- The host issues a command to one instance. -/
def Platform.issue (k : Nat) (p : Platform) : Host.Outcome Platform Fault Refusal :=
  p.onUnit k State.issue

end Sys2Proof.Machine
end

