-- ==== Sys2Proof/Machine/Reference.lean ====
section
/-! DEFINITION. The block's behaviour as R12 gives it, one function of the command word and the request
bytes alone, written from R55's dispatch, the byte lists of R65, the byte map of R72 and the closed form
of R83. The machine's step is stated to refine it. -/

namespace Sys2Proof.Reference

open Sys2Proof.Machine

/-- Four bytes as one value, the first the most significant (R9's `++`). -/
def word32 (b3 b2 b1 b0 : Byte) : BitVec 32 := ((b3 ++ b2) ++ (b1 ++ b0)).cast (by decide)

/-- Two bytes as one value, the first the most significant. -/
def word16 (b1 b0 : Byte) : BitVec 16 := (b1 ++ b0).cast (by decide)

/-- DECODE by R65 and R64's ACTIVE: a request of twenty bytes, or MALFORMED_HEADER. -/
def decode : List Byte → Response
  | [b0, b1, b2, b3, b4, b5, b6, b7, b8, b9, b10, b11, _, b13, _, _, _, _, _, _] =>
    .ok (.decoded (word16 b1 b0) (word16 b3 b2) (word32 b7 b6 b5 b4) (word32 b11 b10 b9 b8)
      (b13.extractLsb' 0 6))
  | _ => .error .malformedHeader

/-- The byte map of R72. -/
def transform : List Byte → Response
  | [b0, b1, b2, b3, b4, b5, b6, b7, _, _, _, _, b12, b13, b14, b15, b16, b17, b18, b19] =>
    let next := word32 b7 b6 b5 b4 + 1
    .ok (.header #v[
      b2,
      b3,
      if b1.getLsbD 7 then b0 ^^^ 0x20 else b0,
      if b1.getLsbD 7 then b1 ^^^ 0x10 else b1,
      next.extractLsb' 0 8,
      next.extractLsb' 8 8,
      next.extractLsb' 16 8,
      next.extractLsb' 24 8,
      b4,
      b5,
      b6,
      b7,
      b12,
      if b13.getLsbD 1 then b13 ||| 0x12 else b13,
      b14,
      b15,
      b16,
      b17,
      b18,
      b19])
  | _ => .error .malformedHeader

/-- `FLAGS_OUT = (F AND 0xCF) OR (A << 5) OR (S << 4)` (R83). -/
def setFlags (f : Byte) (a s : Bool) : Response :=
  .ok (.flags ((f &&& 0xCF) ||| ((BitVec.ofBool a).setWidth 8 <<< 5)
    ||| ((BitVec.ofBool s).setWidth 8 <<< 4)))

/-- `Exec(cmd, req)`, the dispatch of R55. -/
def exec (cmd : Word) (req : List Byte) : Response :=
  if cmd.extractLsb' 0 2 = 0b00 ∧ cmd.extractLsb' 2 14 = 0 then decode req
  else if cmd.extractLsb' 0 2 = 0b01 ∧ cmd.extractLsb' 2 14 = 0 then transform req
  else if cmd.extractLsb' 0 2 = 0b10 ∧ cmd.extractLsb' 4 4 = 0 then
    setFlags (cmd.extractLsb' 8 8) (cmd.getLsbD 2) (cmd.getLsbD 3)
  else .error .illegalCommand

end Sys2Proof.Reference
end

