-- ==== Sys2Proof/Machine/Session.lean ====
section
/-! DEFINITION. A session: the host presents, issues and reads one command after another (R20, R113), and
each response comes back after a finite time, LATENCY (R115, R116). -/

namespace Sys2Proof.Machine

/-- A command as the host presents it: the word and the request. -/
structure Presented where
  cmd : Word
  req : List Byte
deriving DecidableEq, Repr

/-- One command: operands put on the ports, issued, executed (R20). -/
def State.command (p : Presented) (s : State) : Answer :=
  andThen ((s.writeCmd p.cmd).writeReq p.req).issue step

/-- A command of a session, with how long the host waits before it issues the command and how long the
response takes. Both are arguments, `LATENCY` being an open parameter that may differ for each command
(R8, R115). -/
structure Timed where
  presented : Presented
  wait : Nat
  latency : Nat
deriving DecidableEq, Repr

/-- What the host reads when a response comes back, and the time at which it does. -/
structure Received where
  time : Nat
  response : Option Response
deriving DecidableEq, Repr

/-- The host waits for each response before it issues the next command (R113); `now` is the time of the
earlier response. DESIGN CHOICE (log entry 7): times, waits and latencies are natural numbers of one unit. -/
def runSession (now : Nat) (s : State) :
    List Timed → Host.Outcome (State × List Received) Fault Refusal
  | [] => .next (s, [])
  | p :: ps =>
    andThen (s.command p.presented) fun t =>
      andThen (runSession (now + p.wait + p.latency) t ps) fun rest =>
        .next (rest.1, { time := now + p.wait + p.latency, response := t.response } :: rest.2)

end Sys2Proof.Machine
end

