-- ==== Sys2Proof/Machine/Store.lean ====
section
/-! DEFINITION. A keyed store as plain data in one canonical form: keys strictly rising, so that equal
stores are equal lists. The host's named buffers and variables are held so. -/

namespace Sys2Proof.Machine

/-- Key and value pairs. -/
abbrev Store (α : Type) := List (Nat × α)

/-- The value of a key, if the store lists it. -/
def Store.get {α : Type} (k : Nat) : Store α → Option α
  | [] => none
  | p :: ps => if p.1 = k then some p.2 else Store.get k ps

/-- A key created or its value replaced, the order of the keys kept. -/
def Store.put {α : Type} (k : Nat) (v : α) : Store α → Store α
  | [] => [(k, v)]
  | p :: ps =>
    if k < p.1 then (k, v) :: p :: ps
    else if k = p.1 then (k, v) :: ps
    else p :: Store.put k v ps

/-- Every key of a store is above a bound. -/
def Store.above {α : Type} (k : Nat) (m : Store α) : Bool := m.all (fun p => decide (k < p.1))

/-- The canonical form: keys strictly rising. -/
def Store.wf {α : Type} : Store α → Bool
  | [] => true
  | p :: ps => Store.above p.1 ps && Store.wf ps

end Sys2Proof.Machine
end

