-- ==== Sys2Proof/Machine/Script.lean ====
section
/-! DEFINITION. Host scripts (R59 to R62): the host as a machine of its own around one block. Its
statements are steps of the host; those with a command word present operands, issue, let the block
execute and read the response. -/

namespace Sys2Proof.Machine

/-- Names of buffers, variables and labels are numbers: the notation fixes no alphabet (D19, log entry 16). -/
abbrev BufName := Nat
abbrev VarName := Nat
abbrev Label := Nat

/-- A byte value in a statement: a number, a host variable, or a result name of the last response that fits
a byte, STATUS and ACTIVE widened with zeros (R60, R61, R62). DESIGN CHOICE (log entry 24; safe): the spec
does not list the forms of `<value>`; result names wider than a byte are not admitted. -/
inductive ByteVal where
  | lit (b : Byte)
  | var (x : VarName)
  | status
  | active
  | flagsOut
deriving DecidableEq, Repr

/-- Statements that do not branch. DESIGN CHOICE (log entry 25; safe): the spec does not list the forms of the
index `<i>` and of BUF's `<byte>`; the model admits numbers only, no host variable and no result name. -/
inductive Act where
  /-- `BUF <name> := <byte> …` (R62). -/
  | makeBuf (b : BufName) (bytes : List Byte)
  /-- `<name>[<i>] := <value>` (R62). -/
  | writeByte (b : BufName) (i : Nat) (v : ByteVal)
  /-- `f := <name>[<i>]` (R62). -/
  | readByte (x : VarName) (b : BufName) (i : Nat)
  /-- `DECODE <buf>` (R59). -/
  | decode (b : BufName)
  /-- `TRANSFORM <buf> -> <dst>` (R59). -/
  | transform (b dst : BufName)
  /-- `SETFLAGS <f>, <a>, <s>` (R59). -/
  | setFlags (f : ByteVal) (a s : Bool)
  /-- `RAW <word>, <buf>` (R59). -/
  | raw (w : Word) (b : BufName)
deriving DecidableEq, Repr

/-- The statements of a script. -/
inductive Stmt where
  | act (a : Act)
  /-- The pseudo-instruction `SETFLAGS_WB <buf>, <a>, <s>` (R61). -/
  | setFlagsWb (b : BufName) (a s : Bool)
  /-- `IF STATUS != OK GOTO <label>` (R62). -/
  | ifNotOkGoto (l : Label)
  /-- `GOTO <label>` (R62). -/
  | goto (l : Label)
  /-- `HALT` (R62). -/
  | halt
deriving DecidableEq, Repr

/-- A statement with the labels that name it; a label is no statement of its own (R62). -/
structure Line where
  labels : List Label
  stmt : Stmt
deriving DecidableEq, Repr

/-- The host: its script, statement index, buffers, variables, its view of the last response (R60, R62),
the log of the non-OK statuses it was answered, which it never clears (R95), and the model's own counter
`reads` of the reads that no response answers (log entry 19). -/
structure HostState where
  script : List Line
  index : Nat
  buffers : Store (List Byte)
  vars : Store Byte
  view : Option Response
  faultLog : List Cause
  halted : Bool
  reads : Nat
deriving DecidableEq, Repr

/-- The host and the block it drives. -/
structure System where
  host : HostState
  block : State
deriving DecidableEq, Repr

/-- The answer type of the script model. -/
abbrev HostAnswer := Host.Outcome System Fault Refusal

/-- A script before its first statement, on a block after reset (R62). -/
def System.start (script : List Line) : System :=
  { host :=
      { script := script
        index := 0
        buffers := []
        vars := []
        view := none
        faultLog := []
        halted := false
        reads := 0 }
    block := State.reset }

/-- The host's buffer of a name. -/
def System.buffer (sys : System) (b : BufName) : Host.Outcome (List Byte) Fault Refusal :=
  match sys.host.buffers.get b with
  | some bytes => .next bytes
  | none => .fault .unknownBuffer

/-- A host buffer created or replaced. -/
def System.putBuffer (b : BufName) (bytes : List Byte) (sys : System) : System :=
  { sys with host := { sys.host with buffers := sys.host.buffers.put b bytes } }

/-- A read that no response answers has taken its free value. -/
def System.countRead (sys : System) : System :=
  { sys with host := { sys.host with reads := sys.host.reads + 1 } }

/-- STATUS as the host reads it (R60): of the last response, and a free value while there is none (U7,
R107; log entry 19). -/
def System.readStatus (sys : System) : BitVec 2 × System :=
  match sys.host.view with
  | some r => (r.status.code, sys)
  | none => (Config.freeReadStatus sys.host.reads, sys.countRead)

/-- A result name as the host reads it (R60). After a status that is not OK the result is absent and the
read is refused (R22, D9, U6). Before any response, and after an OK response of another operation, it is a
free value (R21, R107, R111, U7; log entry 19). -/
def System.readResult {α : Type} (name : Result → Option α) (free : Nat → α) (sys : System) :
    Host.Outcome (α × System) Fault Refusal :=
  match sys.host.view with
  | some (.error _) => .refused .notCarried
  | some (.ok r) =>
    match name r with
    | some v => .next (v, sys)
    | none => .next (free sys.host.reads, sys.countRead)
  | none => .next (free sys.host.reads, sys.countRead)

/-- ACTIVE of a result (R53). -/
def Result.active? : Result → Option (BitVec 6)
  | .decoded _ _ _ _ active => some active
  | .header _ => none
  | .flags _ => none

/-- FLAGS_OUT of a result (R53). -/
def Result.flagsOut? : Result → Option Byte
  | .decoded _ _ _ _ _ => none
  | .header _ => none
  | .flags flagsOut => some flagsOut

/-- The value of a byte operand, and the host after it is read. -/
def System.value (v : ByteVal) (sys : System) : Host.Outcome (Byte × System) Fault Refusal :=
  match v with
  | .lit b => .next (b, sys)
  | .var x =>
    match sys.host.vars.get x with
    | some b => .next (b, sys)
    | none => .fault .unknownVariable
  | .status => .next (sys.readStatus.1.setWidth 8, sys.readStatus.2)
  | .active =>
    andThen (sys.readResult Result.active? Config.freeReadActive) fun p =>
      .next (p.1.setWidth 8, p.2)
  | .flagsOut => sys.readResult Result.flagsOut? Config.freeReadFlagsOut

/-- The host reads a response: it becomes the host's view until the next command (R60), and a non-OK
status goes into the fault log (R95). -/
def HostState.collect (r : Response) (h : HostState) : HostState :=
  match r with
  | .ok _ => { h with view := some r }
  | .error c => { h with view := some r, faultLog := h.faultLog ++ [c] }

/-- The host reads whatever response stands; the step of an outstanding command always leaves one. -/
def HostState.hear (r : Option Response) (h : HostState) : HostState :=
  match r with
  | some r => h.collect r
  | none => h

/-- A command statement: word and operands on the ports, issue, execution, response read. -/
def System.command (ports : State → State) (sys : System) : HostAnswer :=
  andThen (ports sys.block).issue fun b =>
    andThen (step b) fun b' => .next { host := sys.host.hear b'.response, block := b' }

/-- A command on a host buffer: REQ is the buffer and REQ_LEN its length (R59). -/
def System.commandOn (w : Word) (b : BufName) (sys : System) : HostAnswer :=
  andThen (sys.buffer b) fun bytes =>
    sys.command fun s => (s.writeCmd w).writeReq bytes

/-- RESP of the last response stored into a buffer; with no RESP the buffer is unchanged (R59). -/
def System.storeResp (dst : BufName) (sys : System) : System :=
  match sys.host.view with
  | some (.ok (.header resp)) => sys.putBuffer dst resp.toList
  | some (.ok (.decoded _ _ _ _ _)) => sys
  | some (.ok (.flags _)) => sys
  | some (.error _) => sys
  | none => sys

/-- One byte of a host buffer. -/
def System.readByte (b : BufName) (i : Nat) (sys : System) : Host.Outcome Byte Fault Refusal :=
  andThen (sys.buffer b) fun bytes =>
    match bytes[i]? with
    | some v => .next v
    | none => .fault .indexOutsideBuffer

/-- One byte written into a host buffer. -/
def System.writeByte (b : BufName) (i : Nat) (v : Byte) (sys : System) : HostAnswer :=
  andThen (sys.buffer b) fun bytes =>
    if i < bytes.length then .next (sys.putBuffer b (bytes.set i v))
    else .fault .indexOutsideBuffer

/-- What a statement that does not branch does (R59, R62). The index does not move here. -/
def runAct (a : Act) (sys : System) : HostAnswer :=
  match a with
  | .makeBuf b bytes => .next (sys.putBuffer b bytes)
  | .writeByte b i v => andThen (sys.value v) fun p => p.2.writeByte b i p.1
  | .readByte x b i =>
    andThen (sys.readByte b i) fun v =>
      .next { sys with host := { sys.host with vars := sys.host.vars.put x v } }
  | .decode b => sys.commandOn (encode .decode) b
  | .transform b dst =>
    andThen (sys.commandOn (encode .transform) b) fun t => .next (t.storeResp dst)
  | .setFlags f wantA wantS =>
    andThen (sys.value f) fun p =>
      p.2.command (State.writeCmd (encode (.setFlags p.1 wantA wantS)))
  | .raw w b => sys.commandOn w b

/-- Statements one after the other. -/
def runActs : List Act → System → HostAnswer
  | [], sys => .next sys
  | a :: as, sys => andThen (runAct a sys) (runActs as)

/-- The host variable that SETFLAGS_WB's expansion uses, R61's `f` (log entry 16). -/
abbrev writeBackVar : VarName := 0

/-- The offset of the flags byte that SETFLAGS_WB edits (R61). -/
abbrev writeBackOffset : Nat := 13

/-- The expansion of SETFLAGS_WB into three statements (R61). -/
def setFlagsWbActs (b : BufName) (a s : Bool) : List Act :=
  [.readByte writeBackVar b writeBackOffset,
   .setFlags (.var writeBackVar) a s,
   .writeByte b writeBackOffset .flagsOut]

/-- The index moves to the next statement. -/
def System.advance (sys : System) : System :=
  { sys with host := { sys.host with index := sys.host.index + 1 } }

/-- The index of the statement that a label names, the first if several lines carry it. -/
def labelIndex (l : Label) (script : List Line) : Option Nat :=
  script.findIdx? (fun line => line.labels.contains l)

/-- A taken branch: the index moves to the statement after the label (R62). -/
def System.branch (l : Label) (sys : System) : HostAnswer :=
  match labelIndex l sys.host.script with
  | some i => .next { sys with host := { sys.host with index := i } }
  | none => .fault .unknownLabel

/-- What a statement does. -/
def runStmt (st : Stmt) (sys : System) : HostAnswer :=
  match st with
  | .act a => andThen (runAct a sys) fun t => .next t.advance
  | .setFlagsWb b a s => andThen (runActs (setFlagsWbActs b a s) sys) fun t => .next t.advance
  | .ifNotOkGoto l =>
    if sys.readStatus.1 = Status.ok.code then .next sys.readStatus.2.advance
    else sys.readStatus.2.branch l
  | .goto l => sys.branch l
  | .halt => .next { sys with host := { sys.host with halted := true } }

/-- One statement of the script; after HALT nothing changes (R62). -/
def System.step (sys : System) : HostAnswer :=
  if sys.host.halted then .next sys
  else
    match sys.host.script[sys.host.index]? with
    | none => .fault .ranOffScript
    | some line => runStmt line.stmt sys

end Sys2Proof.Machine
end

