-- ==== Sys2Proof/Safety.lean ====
section
/-! DEFINITION. What counts as a legal state, a safe run of the block, and a script whose commands all
succeeded. -/

namespace Sys2Proof.Machine

/-- A standing response is one the block can return: STATUS is OK exactly when a result is carried, and
its code is never 0b11 (R21, R22, R25, R52). -/
def State.wf (s : State) : Bool :=
  match s.phase with
  | .idle => true
  | .executing _ _ => true
  | .answered .nothing => s.status == 0b01 || s.status == 0b10
  | .answered .decoded => s.status == 0b00
  | .answered .header => s.status == 0b00
  | .answered .flags => s.status == 0b00

/-- No command is outstanding, so the host may issue one (R113). -/
abbrev State.notExecuting (s : State) : Prop := ∀ w req, s.phase ≠ .executing w req

/-- A run of k steps that neither faults nor is refused. -/
def SafeRun (k : Nat) (s : State) : Prop := ∃ t, Sys2Proof.core.run k s = .next t

/-- "No command failed", from the log a host model never clears (R95). -/
def HostState.noCommandFailed (h : HostState) : Bool := h.faultLog.isEmpty

/-- The host's stores are in canonical form. -/
def HostState.wf (h : HostState) : Bool := h.buffers.wf && h.vars.wf

end Sys2Proof.Machine
end

