-- ==== Sys2Proof/Certificates/Slice0/Obligations.lean ====
section
/-! DEFINITION. The statements for the provers. Each docstring names the rule it formalises. A command is
outstanding with its latched operands when `s.phase = .executing w req`; a request of twenty bytes is
`buf.toList` for a header `buf`, and no other byte list is one. A next state written `s.succeed …` or
`s.raise …` also says that the lines its response does not carry hold the model's free values (log entry 5,
DESIGN CHOICE). -/

open Sys2Proof Sys2Proof.Machine

/-! Encoding. -/

/-- R46, R56, R59: no bit of a command is lost on the way through its word. -/
def Obligations.DecodeOfEncodeIsIdentity : Prop :=
  ∀ i : Instr, i.wf = true → decodeWord (encode i) = .ok i

/-- R46, R56: a word has one meaning, and a legal word is the word of its command. -/
def Obligations.EncodeOfDecodeIsIdentity : Prop :=
  ∀ (w : Word) (i : Instr), decodeWord w = .ok i → encode i = w

/-- R56: a word is a command's exactly when it matches the row's mask, with the fields where the row has
them. -/
def Obligations.WordsMatchTheirOpcodeRow : Prop :=
  ∀ w : Word,
    (decodeWord w = .ok .decode ↔ w &&& 0xFFFF = 0x0000) ∧
    (decodeWord w = .ok .transform ↔ w &&& 0xFFFF = 0x0001) ∧
    ∀ (f : Byte) (a s : Bool), decodeWord w = .ok (.setFlags f a s) ↔
      w &&& 0x00F3 = 0x0002 ∧ f = w.extractLsb' 8 8 ∧ s = w.getLsbD 3 ∧ a = w.getLsbD 2

/-- R51: a reserved bit that is set makes the word illegal, whatever the operation and the request. -/
def Obligations.ReservedBitsMakeTheWordIllegal : Prop :=
  ∀ (s : State) (w : Word) (req : List Byte), s.phase = .executing w req →
    (w.extractLsb' 4 4 ≠ 0 ∨
      ((w.extractLsb' 0 2 = 0b00 ∨ w.extractLsb' 0 2 = 0b01) ∧ w.extractLsb' 2 14 ≠ 0)) →
    step s = .next (s.raise .illegalCommand)

/-- R48: OP selects the operation, and OP = 0b11 is illegal. -/
def Obligations.OperationFieldSelectsTheCommand : Prop :=
  (∀ (w : Word) (i : Instr), decodeWord w = .ok i →
    (w.extractLsb' 0 2 = 0b00 ∧ i = .decode) ∨
    (w.extractLsb' 0 2 = 0b01 ∧ i = .transform) ∨
    (w.extractLsb' 0 2 = 0b10 ∧ ∃ f a s, i = .setFlags f a s)) ∧
  ∀ (s : State) (w : Word) (req : List Byte), s.phase = .executing w req →
    w.extractLsb' 0 2 = 0b11 → step s = .next (s.raise .illegalCommand)

/-- R90: a word that is none of R56's assigned words answers ILLEGAL_COMMAND with no result, and the next
state is the same whatever the request is. -/
def Obligations.UnassignedWordAnswersIllegalCommand : Prop :=
  ∀ (s : State) (w : Word) (req req' : List Byte), s.phase = .executing w req →
    w &&& 0xFFFF ≠ 0x0000 → w &&& 0xFFFF ≠ 0x0001 → w &&& 0x00F3 ≠ 0x0002 →
    ∃ t, step s = .next t ∧ t = s.raise .illegalCommand ∧
      t.response = some (.error .illegalCommand) ∧ t.status = 0b10 ∧
      step { s with phase := .executing w req' } = .next t

/-- R63: the encoding examples, as decoded and as encoded. -/
def Obligations.EncodingExamplesDecode : Prop :=
  decodeWord 0b0000000000000000 = .ok .decode ∧
  decodeWord 0b0000000000000001 = .ok .transform ∧
  decodeWord 0b0000000000001110 = .ok (.setFlags 0x00 true true) ∧
  decodeWord 0b0001001000000110 = .ok (.setFlags 0x12 true false) ∧
  decodeWord 0b0001001000000010 = .ok (.setFlags 0x12 false false) ∧
  decodeWord 0b0000001000001010 = .ok (.setFlags 0x02 false true) ∧
  decodeWord 0b1111111100000010 = .ok (.setFlags 0xFF false false) ∧
  encode (.setFlags 0x3F false true) = 0x3F0A ∧
  encode (.setFlags 0xC0 true true) = 0xC00E ∧
  decodeWord 0x0003 = .error .reservedOperation ∧
  decodeWord 0x0100 = .error .operandBitsSet ∧
  decodeWord 0x0012 = .error .reservedBitsSet

/-! The step. -/

/-- R15, R55: a step runs the decoded command; an illegal word is rejected; with nothing outstanding
nothing changes (this last clause is the model's, log entry 6). -/
def Obligations.StepRunsTheDecodedCommand : Prop :=
  (∀ (s : State) (w : Word) (req : List Byte) (i : Instr), s.phase = .executing w req →
    decodeWord w = .ok i → step s = exec i s) ∧
  (∀ (s : State) (w : Word) (req : List Byte) (e : DecodeError), s.phase = .executing w req →
    decodeWord w = .error e → step s = .next (s.raise .illegalCommand)) ∧
  ∀ s : State, s.notExecuting → step s = .next s

/-- R12, R55: the machine refines `Exec(cmd, req)`, whatever else the state holds. That CMD and REQ stay on
the ports is the model's (log entry 23). -/
def Obligations.StepRefinesExec : Prop :=
  ∀ (s : State) (w : Word) (req : List Byte), s.phase = .executing w req →
    ∃ t, step s = .next t ∧ t.response = some (Reference.exec w req) ∧
      t.cmd = s.cmd ∧ t.req = s.req ∧ t.notExecuting

/-- R92: exactly one status, by priority: illegal word, then length, then OK. -/
def Obligations.OneStatusByPriority : Prop :=
  ∀ (s : State) (w : Word) (req : List Byte), s.phase = .executing w req →
    ∃ t r, step s = .next t ∧ t.response = some r ∧
      ((∀ i, decodeWord w ≠ .ok i) → r = .error .illegalCommand) ∧
      (∀ i, decodeWord w = .ok i → (i = .decode ∨ i = .transform) → req.length ≠ 20 →
        r = .error .malformedHeader) ∧
      (∀ i, decodeWord w = .ok i → (¬ (i = .decode ∨ i = .transform) ∨ req.length = 20) →
        r.status = .ok) ∧
      (w = 0x0003 → req.length = 19 → r.status = .illegalCommand)

/-- R52: the codes, and that 0b11 is never returned. -/
def Obligations.StatusCodeThreeIsNeverReturned : Prop :=
  Status.ok.code = 0b00 ∧ Status.malformedHeader.code = 0b01 ∧ Status.illegalCommand.code = 0b10 ∧
  ∀ (s : State) (w : Word) (req : List Byte), s.phase = .executing w req →
    ∃ t r, step s = .next t ∧ t.response = some r ∧ t.status = r.status.code ∧ t.status ≠ 0b11

/-- R21: a response carries STATUS and, only when it is OK, its own operation's result. -/
def Obligations.ResponseCarriesOnlyItsOwnResult : Prop :=
  ∀ (i : Instr) (s : State) (w : Word) (req : List Byte), s.phase = .executing w req →
    ∃ t r, exec i s = .next t ∧ t.response = some r ∧
      (r.status ≠ .ok → r.result = none) ∧
      (r.status = .ok →
        match i with
        | .decode => ∃ sp dp sq ak ac, r.result = some (.decoded sp dp sq ak ac) ∧
            t.srcPort = sp ∧ t.dstPort = dp ∧ t.seq = sq ∧ t.ack = ak ∧ t.active = ac
        | .transform => ∃ h, r.result = some (.header h) ∧ t.resp = h
        | .setFlags _ _ _ => ∃ f, r.result = some (.flags f) ∧ t.flagsOut = f)

/-- The frame of the three commands (R16, R20, R33): the input ports keep CMD and every byte of REQ, nothing is
outstanding afterwards, and of the model's own fields the counter counts one draw and the stream stays (log
entry 5). That the ports keep their values after a command is the model's (log entry 23). The output lines that
the response does not carry hold nothing from before (R19, R21), so the frame says nothing of them. -/
def Obligations.CommandsLeaveThePortsAlone : Prop :=
  ∀ (i : Instr) (s : State) (w : Word) (req : List Byte), s.phase = .executing w req →
    ∃ t, exec i s = .next t ∧ t.cmd = s.cmd ∧ t.reqLen = s.reqLen ∧
      (∀ k : Nat, t.req[k]? = s.req[k]?) ∧ t.notExecuting ∧ t.draws = s.draws + 1 ∧
      t.stream = s.stream

/-- R116, R91: no command can hang, faults or is refused, for any number of steps from any state. That a step
of a block with nothing outstanding completes is the model's (log entry 6, DEDUCED): the rules speak of
the step that executes a command. -/
def Obligations.EveryRunOfStepsCompletes : Prop :=
  ∀ (k : Nat) (s : State), SafeRun k s

/-! DECODE. -/

/-- R65: the fields of every request of twenty bytes; every value of each field occurs. -/
def Obligations.DecodeReturnsTheFields : Prop :=
  (∀ (s : State) (w : Word) (buf : Header), s.phase = .executing w buf.toList →
    exec .decode s = .next (s.succeed (.decoded
      (Reference.word16 buf[1] buf[0]) (Reference.word16 buf[3] buf[2])
      (Reference.word32 buf[7] buf[6] buf[5] buf[4])
      (Reference.word32 buf[11] buf[10] buf[9] buf[8])
      (buf[13].extractLsb' 0 6)))) ∧
  ∀ (sp dp : BitVec 16) (sq ak : BitVec 32) (ac : BitVec 6), ∃ buf : Header,
    decodeHeader buf = .decoded sp dp sq ak ac

/-- R68: DECODE of any other length is MALFORMED_HEADER, and the next state depends on no byte of it. -/
def Obligations.DecodeRejectsEveryOtherLength : Prop :=
  ∀ (s : State) (w : Word) (req req' : List Byte), s.phase = .executing w req →
    req.length ≠ 20 → req'.length ≠ 20 →
    ∃ t, exec .decode s = .next t ∧ t = s.raise .malformedHeader ∧
      t.response = some (.error .malformedHeader) ∧ t.status = 0b01 ∧
      exec .decode { s with phase := .executing w req' } = .next t

/-- R66, R67: the listing is the names of the set bits in descending bit order, and DECODE's ACTIVE is
the low six bits of the flags byte. -/
def Obligations.ActiveListDescends : Prop :=
  (∀ active : BitVec 6,
    activeList active =
      [FlagName.URG, .ACK, .PSH, .RST, .SYN, .FIN].filter (fun n => active.getLsbD n.bit) ∧
    (activeList active).Nodup ∧ (activeList active).length ≤ 6 ∧
    (activeList active).Pairwise (fun m n => n.bit < m.bit)) ∧
  ∀ (flags : Byte) (n : FlagName),
    n ∈ activeList (activeBits flags) ↔ flags.getLsbD n.bit = true

/-- R42, R69, R70: DECODE's response depends on offsets 0 to 11 and on the low six bits of offset 13, and
on nothing else: not on other bytes, not on the history. -/
def Obligations.DecodeDependsOnlyOnTheFieldsItReads : Prop :=
  ∀ (s s' : State) (w w' : Word) (buf buf' : Header),
    s.phase = .executing w buf.toList → s'.phase = .executing w' buf'.toList →
    (∀ k, (h : k < 20) → k < 12 → buf[k] = buf'[k]) →
    (∀ k, k < 6 → buf[13].getLsbD k = buf'[13].getLsbD k) →
    ∃ t t', exec .decode s = .next t ∧ exec .decode s' = .next t' ∧ t.response = t'.response

/-! TRANSFORM. -/

/-- R72: every RESP byte as a function of REQ. -/
def Obligations.TransformByteMap : Prop :=
  ∀ (s : State) (w : Word) (buf : Header), s.phase = .executing w buf.toList →
    ∃ resp : Header, exec .transform s = .next (s.succeed (.header resp)) ∧
      resp[0] = buf[2] ∧ resp[1] = buf[3] ∧
      resp[2] = (if buf[1].getLsbD 7 then buf[0] ^^^ 0x20 else buf[0]) ∧
      resp[3] = (if buf[1].getLsbD 7 then buf[1] ^^^ 0x10 else buf[1]) ∧
      Reference.word32 resp[7] resp[6] resp[5] resp[4] =
        Reference.word32 buf[7] buf[6] buf[5] buf[4] + 1 ∧
      resp[8] = buf[4] ∧ resp[9] = buf[5] ∧ resp[10] = buf[6] ∧ resp[11] = buf[7] ∧
      resp[12] = buf[12] ∧
      resp[13] = (if buf[13].getLsbD 1 then buf[13] ||| 0x12 else buf[13]) ∧
      resp[14] = buf[14] ∧ resp[15] = buf[15] ∧ resp[16] = buf[16] ∧ resp[17] = buf[17] ∧
      resp[18] = buf[18] ∧ resp[19] = buf[19]

/-- R33, R72: the writes of a TRANSFORM name every offset exactly once, so the response is the same
whatever RESP held. That the response is built over the RESP register is the model's (log entry 21, DEDUCED). -/
def Obligations.TransformWritesEveryByteOnce : Prop :=
  ∀ buf : Header,
    ((responseWrites buf).map Prod.fst).Perm (List.range 20) ∧
    ∀ blank blank' : Header, transformInto blank buf = transformInto blank' buf

/-- R74: the scramble of the source port, by its bit 15 and no other threshold, undoes itself; TRANSFORM
puts the scrambled port into RESP. -/
def Obligations.ScrambleTestsBitFifteen : Prop :=
  (∀ sp : BitVec 16,
    (sp.getLsbD 15 = true ↔ 32768 ≤ sp.toNat) ∧
    (sp.getLsbD 15 = true → scramble sp = sp ^^^ 0x1020) ∧
    (sp.getLsbD 15 = false → scramble sp = sp) ∧
    (scramble sp).getLsbD 15 = sp.getLsbD 15 ∧
    scramble (scramble sp) = sp) ∧
  ∀ (s : State) (w : Word) (buf : Header), s.phase = .executing w buf.toList →
    ∃ resp : Header, exec .transform s = .next (s.succeed (.header resp)) ∧
      rd16 resp 2 = scramble (rd16 buf 0)

/-- R75: the port swap. -/
def Obligations.TransformSwapsThePorts : Prop :=
  ∀ (s : State) (w : Word) (buf : Header), s.phase = .executing w buf.toList →
    ∃ resp : Header, exec .transform s = .next (s.succeed (.header resp)) ∧
      resp[0] = buf[2] ∧ resp[1] = buf[3] ∧
      resp[2] = (scramble (rd16 buf 0)).extractLsb' 0 8 ∧
      resp[3] = (scramble (rd16 buf 0)).extractLsb' 8 8 ∧
      rd16 resp 0 = rd16 buf 2 ∧ rd16 resp 2 = scramble (rd16 buf 0)

/-- R73, R76, R77: the sequence number is the request's plus one mod 2^32, the acknowledgement number the
request's sequence number, byte for byte. -/
def Obligations.TransformSequenceNumbers : Prop :=
  ∀ (s : State) (w : Word) (buf : Header), s.phase = .executing w buf.toList →
    ∃ resp : Header, exec .transform s = .next (s.succeed (.header resp)) ∧
      (rd32 resp 4).toNat = ((rd32 buf 4).toNat + 1) % 2 ^ 32 ∧
      resp[4] = (rd32 buf 4 + 1).extractLsb' 0 8 ∧ resp[5] = (rd32 buf 4 + 1).extractLsb' 8 8 ∧
      resp[6] = (rd32 buf 4 + 1).extractLsb' 16 8 ∧ resp[7] = (rd32 buf 4 + 1).extractLsb' 24 8 ∧
      (rd32 buf 4 = 0xFFFFFFFF → rd32 resp 4 = 0x00000000) ∧
      resp[8] = buf[4] ∧ resp[9] = buf[5] ∧ resp[10] = buf[6] ∧ resp[11] = buf[7] ∧
      rd32 resp 8 = rd32 buf 4 ∧ rd32 resp 4 = rd32 resp 8 + 1 ∧
      rd16 resp 2 = scramble (rd16 buf 0)

/-- R78: SYN becomes SYN+ACK; at most bit 4 changes. -/
def Obligations.TransformFlagsByte : Prop :=
  ∀ (s : State) (w : Word) (buf : Header), s.phase = .executing w buf.toList →
    ∃ resp : Header, exec .transform s = .next (s.succeed (.header resp)) ∧
      (buf[13].getLsbD 1 = true → resp[13] = buf[13] ||| 0x12) ∧
      (buf[13].getLsbD 1 = false → resp[13] = buf[13]) ∧
      ∀ k, k < 8 → k ≠ 4 → resp[13].getLsbD k = buf[13].getLsbD k

/-- R79: the opaque bytes are copied. -/
def Obligations.TransformCopiesTheOpaqueBytes : Prop :=
  ∀ (s : State) (w : Word) (buf : Header), s.phase = .executing w buf.toList →
    ∃ resp : Header, exec .transform s = .next (s.succeed (.header resp)) ∧
      ∀ k, (h : k < 20) → (k = 12 ∨ 14 ≤ k) → resp[k] = buf[k]

/-- R80: TRANSFORM of any other length is MALFORMED_HEADER and reads no byte; of twenty bytes it never
fails. -/
def Obligations.TransformFailsOnTheLengthOnly : Prop :=
  ∀ (s : State) (w : Word) (req req' : List Byte), s.phase = .executing w req →
    (req.length = 20 → ∃ resp, exec .transform s = .next (s.succeed (.header resp))) ∧
    (req.length ≠ 20 → req'.length ≠ 20 →
      ∃ t, exec .transform s = .next t ∧ t = s.raise .malformedHeader ∧
        t.response = some (.error .malformedHeader) ∧ t.status = 0b01 ∧
        exec .transform { s with phase := .executing w req' } = .next t)

/-- R72: the request's acknowledgement number, and the history, do not influence RESP. -/
def Obligations.TransformIgnoresTheAcknowledgement : Prop :=
  ∀ (s s' : State) (w w' : Word) (buf buf' : Header),
    s.phase = .executing w buf.toList → s'.phase = .executing w' buf'.toList →
    (∀ k, (h : k < 20) → (k < 8 ∨ 12 ≤ k) → buf[k] = buf'[k]) →
    ∃ t t', exec .transform s = .next t ∧ exec .transform s' = .next t' ∧
      t.response = t'.response

/-- R82, R114, from R72: TRANSFORM of its own RESP. The source port comes back scrambled (so as it was, if
its bit 15 was clear), the destination port scrambled by its own bit 15, the sequence number is two
ahead, the flags do not change again. -/
def Obligations.TransformOfItsOwnResponse : Prop :=
  ∀ (s : State) (w : Word) (buf : Header), s.phase = .executing w buf.toList →
    ∃ resp : Header, exec .transform s = .next (s.succeed (.header resp)) ∧
      ∀ (s' : State) (w' : Word), s'.phase = .executing w' resp.toList →
        ∃ resp' : Header, exec .transform s' = .next (s'.succeed (.header resp')) ∧
          rd16 resp' 0 = scramble (rd16 buf 0) ∧ rd16 resp' 2 = scramble (rd16 buf 2) ∧
          rd32 resp' 4 = rd32 buf 4 + 2 ∧ rd32 resp' 8 = rd32 buf 4 + 1 ∧
          resp'[13] = resp[13] ∧ resp'[12] = buf[12]

/-! SETFLAGS. -/

/-- R84: A sets or clears bit 5, S sets or clears bit 4, all other bits pass through; whatever the
request and its length. -/
def Obligations.SetFlagsEditsTwoBits : Prop :=
  ∀ (st : State) (w : Word) (req : List Byte) (f : Byte) (a s : Bool),
    st.phase = .executing w req →
    ∃ r : Byte, exec (.setFlags f a s) st = .next (st.succeed (.flags r)) ∧
      r = (f &&& 0xCF) ||| ((BitVec.ofBool a).setWidth 8 <<< 5)
        ||| ((BitVec.ofBool s).setWidth 8 <<< 4) ∧
      r.getLsbD 5 = a ∧ r.getLsbD 4 = s ∧
      (∀ k, k < 8 → k ≠ 4 → k ≠ 5 → r.getLsbD k = f.getLsbD k) ∧
      editMask 0x20 a (editMask 0x10 s f) = r

/-- R86: idempotence, and the last edit wins. -/
def Obligations.SetFlagsLastEditWins : Prop :=
  ∀ (st u : State) (w w' : Word) (req req' : List Byte) (f : Byte) (a s a' s' : Bool),
    st.phase = .executing w req → u.phase = .executing w' req' →
    ∃ t, exec (.setFlags f a s) st = .next t ∧
      (∃ t', exec (.setFlags t.flagsOut a s) u = .next t' ∧ t'.response = t.response) ∧
      exec (.setFlags t.flagsOut a' s') u = exec (.setFlags f a' s') u

/-! Header buffers. -/

/-- R40: field-level round trip, both ways. -/
def Obligations.FieldRoundTrip : Prop :=
  (∀ (buf : Header) (v : BitVec 16),
    rd16 (storeCells buf (wr16 0 v)) 0 = v ∧ rd16 (storeCells buf (wr16 2 v)) 2 = v) ∧
  (∀ (buf : Header) (v : BitVec 32),
    rd32 (storeCells buf (wr32 4 v)) 4 = v ∧ rd32 (storeCells buf (wr32 8 v)) 8 = v) ∧
  ∀ buf : Header,
    storeCells buf (wr16 0 (rd16 buf 0)) = buf ∧ storeCells buf (wr16 2 (rd16 buf 2)) = buf ∧
    storeCells buf (wr32 4 (rd32 buf 4)) = buf ∧ storeCells buf (wr32 8 (rd32 buf 8)) = buf

/-- R39: a 32-bit field is its low half at the lower offset. -/
def Obligations.WideFieldIsItsHalves : Prop :=
  ∀ (buf : Header) (off : Nat) (h : off + 3 < 20),
    rd32 buf off h = (rd16 buf off (Nat.lt_of_le_of_lt (by omega) h)).setWidth 32
      ||| ((rd16 buf (off + 2) h).setWidth 32 <<< 16)

/-- R30: the fields tile the buffer: all of them, written back each at its own offset, give the whole
buffer over any other. -/
def Obligations.FieldsTileTheBuffer : Prop :=
  ∀ blank buf : Header,
    storeCells blank (wr16 offSrc (rd16 buf offSrc) ++ wr16 offDst (rd16 buf offDst)
      ++ wr32 offSeq (rd32 buf offSeq) ++ wr32 offAck (rd32 buf offAck)
      ++ [(offRsv, byteAt buf offRsv)] ++ [(offFlg, byteAt buf offFlg)]
      ++ memWrite offRem (memRead buf offRem remLen)) = buf

/-! Reset, issue and the order of commands. -/

/-- R104: reset leaves the block idle, with no response pending, from any state and at the start. -/
def Obligations.ResetLeavesTheBlockIdle : Prop :=
  State.reset.phase = .idle ∧ State.reset.response = none ∧
  ∀ s : State, s.assertReset.phase = .idle ∧ s.assertReset.response = none

/-- R105: a command in flight at reset is abandoned; issued again it gives the result it would have
given. That a step after the reset leaves the state as it is, is the model's (log entry 6, DEDUCED). -/
def Obligations.ResetAbandonsTheOutstandingCommand : Prop :=
  ∀ (s : State) (w : Word) (req : List Byte), s.phase = .executing w req →
    s.assertReset.response = none ∧ step s.assertReset = .next s.assertReset ∧
    ∃ t u, step s = .next t ∧ s.assertReset.command { cmd := w, req := req } = .next u ∧
      u.response = t.response

/-- R113 (its first two sentences), U9: a second issue has no step; otherwise the issue latches the ports
(R20). The model's: that "no step" is a refusal by name (log entry 8, DEDUCED), that the issue takes the earlier
response away (log entry 14, DEDUCED), and that CMD and REQ stay on the ports (log entry 23, DESIGN CHOICE). -/
def Obligations.IssueNeedsTheEarlierResponse : Prop :=
  (∀ (s : State) (w : Word) (req : List Byte), s.phase = .executing w req →
    s.issue = .refused .issueWhileOutstanding) ∧
  ∀ s : State, s.notExecuting → ∃ t, s.issue = .next t ∧ t.phase = .executing s.cmd s.req ∧
    t.cmd = s.cmd ∧ t.req = s.req ∧ t.response = none

/-- R20, R112: nothing the host writes to the ports after issue changes the response. -/
def Obligations.PortWritesAfterIssueDoNotMatter : Prop :=
  ∀ (s : State) (w w' : Word) (req req' : List Byte), s.phase = .executing w req →
    ∃ t t', step s = .next t ∧ step ((s.writeCmd w').writeReq req') = .next t' ∧
      t'.response = t.response ∧ t.response.isSome = true

/-- R94, R108: a command's response does not depend on the history: after an error, after reset or in any
other state that waits for a command, it is the same. -/
def Obligations.ResponseIsIndependentOfTheHistory : Prop :=
  ∀ (s s' : State) (p : Presented), s.notExecuting → s'.notExecuting →
    ∃ t t', s.command p = .next t ∧ s'.command p = .next t' ∧
      t.response = t'.response ∧ t.response.isSome = true

/-- R12, R44, R116: a session of any length completes, its responses are those of `Exec` in issue order, and
they come back in that order, whatever the latency of each command (R8, R115) and the host's wait before
it. The clause about times rests on the model's time in natural-number units (log entry 7, DESIGN CHOICE). -/
def Obligations.SessionAnswersInIssueOrder : Prop :=
  ∀ (ps : List Timed) (now : Nat) (s : State), s.notExecuting →
    ∃ t rs, runSession now s ps = .next (t, rs) ∧ t.notExecuting ∧
      rs.map Received.response =
        ps.map (fun p => some (Reference.exec p.presented.cmd p.presented.req)) ∧
      (rs.map Received.time).Pairwise (· ≤ ·)

/-- R8, U14: twenty is representable in every REQ_LEN field, and a length that is not is rejected by both
commands that check it. That REQ may have such a length in the model is log entry 11 (DEDUCED, from D7). -/
def Obligations.UnrepresentableLengthsAreRejected : Prop :=
  Config.presentable 20 ∧
  ∀ (s : State) (w : Word) (req : List Byte), s.phase = .executing w req →
    ¬ Config.presentable req.length →
    exec .decode s = .next (s.raise .malformedHeader) ∧
    exec .transform s = .next (s.raise .malformedHeader)

/-- R107, R111: the block shows no response before one stands on its lines. Of a script's view: a name the last
response carries is its value (R60), the result names are refused after an error (R22, U6), and any
other read completes and leaves block and host as they were, of its value nothing being said (R21, R107).
The model's choices: that such a read, which R111 forbids the host, completes (log entry 19), and that STATUS
and ACTIVE may be used as bytes, widened with zeros (log entry 24, DESIGN CHOICE). -/
def Obligations.ScriptReadsFollowTheLastResponse : Prop :=
  (∀ s : State, (∀ k, s.phase ≠ .answered k) → s.response = none) ∧
  ∀ sys : System,
    (∀ r, sys.host.view = some r →
      sys.value .status = .next (r.status.code.setWidth 8, sys)) ∧
    (∀ sp dp sq ak ac, sys.host.view = some (.ok (.decoded sp dp sq ak ac)) →
      sys.value .active = .next (ac.setWidth 8, sys)) ∧
    (∀ f, sys.host.view = some (.ok (.flags f)) → sys.value .flagsOut = .next (f, sys)) ∧
    (∀ c, sys.host.view = some (.error c) →
      sys.value .active = .refused .notCarried ∧ sys.value .flagsOut = .refused .notCarried) ∧
    ((∀ c, sys.host.view ≠ some (.error c)) →
      ∀ v, v = ByteVal.status ∨ v = .active ∨ v = .flagsOut →
        ∃ x t, sys.value v = .next (x, t) ∧ t.block = sys.block ∧
          t.host.view = sys.host.view ∧ t.host.buffers = sys.host.buffers ∧
          t.host.vars = sys.host.vars ∧ t.host.script = sys.host.script ∧
          t.host.index = sys.host.index ∧ t.host.faultLog = sys.host.faultLog)

/-! Invariants. -/

/-- R21, R22, R25, R52: a standing response stays one that the block can return. With nothing outstanding the
step is the model's (log entry 6, DEDUCED). -/
def Obligations.StepKeepsTheResponseLegal : Prop :=
  ∀ s t : State, s.wf = true → step s = .next t → t.wf = true

/-- R20, R21, R22, R104: it holds at reset, and the host's port writes, its issue and the reset line keep it.
The last clause is about `withFetchWord`, an operation that only the model gives (log entry 9, DESIGN
CHOICE). -/
def Obligations.PortOperationsKeepTheResponseLegal : Prop :=
  State.reset.wf = true ∧
  ∀ s : State, s.wf = true →
    (∀ w, (s.writeCmd w).wf = true) ∧ (∀ req, (s.writeReq req).wf = true) ∧
    s.assertReset.wf = true ∧ (∀ t, s.issue = .next t → t.wf = true) ∧
    ∀ n w, (s.withFetchWord n w).wf = true

/-! Several instances. -/

/-- R101: an operation of one instance leaves the others alone, and operations of two instances commute. That
units act one at a time, each named by its place, is the model's choice (log entry 12). -/
def Obligations.InstancesAreIndependent : Prop :=
  ∀ (p : Platform) (j k : Nat) (f g : State → Answer), j ≠ k →
    (∀ q, p.onUnit k f = .next q → q.units[j]? = p.units[j]? ∧ q.units.length = p.units.length) ∧
    ∀ q r, p.onUnit j f = .next q → p.onUnit k g = .next r →
      ∃ t, q.onUnit k g = .next t ∧ r.onUnit j f = .next t

/-- R8, R101: N_INSTANCES instances, at least one, all idle after reset. That each unit has a stream
of free values of its own is the model's (log entry 12); of the units' ports and lines, which R26 leaves
unspecified, nothing is said. A step of any unit of any platform answers next: for a unit that
executes by R116, for one with nothing outstanding by the model's choice (log entry 6, DEDUCED). -/
def Obligations.InstancesStartIdle : Prop :=
  Platform.reset.units.length = Config.nInstances ∧ 1 ≤ Config.nInstances ∧
  (∀ s ∈ Platform.reset.units, s.phase = .idle ∧ s.response = none) ∧
  (∀ (k : Nat) (s : State), Platform.reset.units[k]? = some s → s.stream = k) ∧
  ∀ (p : Platform) (k : Nat), k < p.units.length → ∃ q, p.step k = .next q

/-! Host scripts. -/

/-- R59: TRANSFORM stores RESP into the destination buffer when its status is OK, and changes no buffer
otherwise. The numbering of the index (log entry 16) and that the statement is one step of the host model
(log entry 18) are the model's choices. -/
def Obligations.TransformStatementStoresResp : Prop :=
  ∀ (sys : System) (b dst : BufName) (bytes : List Byte), sys.block.notExecuting →
    Store.get b sys.host.buffers = some bytes →
    ∃ t, runStmt (.act (.transform b dst)) sys = .next t ∧ t.block.notExecuting ∧
      t.host.index = sys.host.index + 1 ∧ t.host.view = some (Reference.transform bytes) ∧
      (∀ resp, Reference.transform bytes = .ok (.header resp) →
        Store.get dst t.host.buffers = some resp.toList ∧
        ∀ c, c ≠ dst → Store.get c t.host.buffers = Store.get c sys.host.buffers) ∧
      (bytes.length ≠ 20 → t.host.buffers = sys.host.buffers ∧
        t.host.view = some (.error .malformedHeader) ∧
        t.host.faultLog = sys.host.faultLog ++ [.malformedHeader])

/-- R61: SETFLAGS_WB edits offset 13 of its buffer and changes nothing else of any buffer. The variable and
the index (log entry 16), that the statement is one step of the host model (log entries 16 and 18), and what
stays on the ports (log entry 23) are the model's choices. -/
def Obligations.SetFlagsWbChangesOffsetThirteenOnly : Prop :=
  ∀ (sys : System) (b : BufName) (a s : Bool) (bytes : List Byte) (flags : Byte),
    sys.block.notExecuting → Store.get b sys.host.buffers = some bytes →
    bytes[13]? = some flags →
    ∃ t, runStmt (.setFlagsWb b a s) sys = .next t ∧ t.block.notExecuting ∧
      Store.get b t.host.buffers = some (bytes.set 13 (editFlags flags a s)) ∧
      (∀ c, c ≠ b → Store.get c t.host.buffers = Store.get c sys.host.buffers) ∧
      t.host.view = some (.ok (.flags (editFlags flags a s))) ∧
      Store.get writeBackVar t.host.vars = some flags ∧
      t.block.cmd = encode (.setFlags flags a s) ∧ t.block.req = sys.block.req ∧
      t.host.index = sys.host.index + 1 ∧ t.host.faultLog = sys.host.faultLog

/-- R110: SETFLAGS by itself writes no host buffer. That the statement is one step of the host model is the
model's choice (log entry 18). -/
def Obligations.SetFlagsStatementWritesNoBuffer : Prop :=
  ∀ (sys : System) (f : Byte) (a s : Bool), sys.block.notExecuting →
    ∃ t, runStmt (.act (.setFlags (.lit f) a s)) sys = .next t ∧
      t.host.buffers = sys.host.buffers ∧
      t.host.view = some (.ok (.flags (editFlags f a s)))

/-- R62: the branches: `IF STATUS != OK` on the last response, `GOTO`, and `HALT`. Before any response STATUS
is unspecified (R107), and the test goes either way (log entry 19). The numbering of statements and labels
(log entry 16) and that a step after HALT answers next and changes nothing (log entry 17) are the model's
choices (DESIGN CHOICE). -/
def Obligations.BranchesFollowTheStatus : Prop :=
  ∀ (sys : System) (l : Label) (i : Nat), labelIndex l sys.host.script = some i →
    (∀ r, sys.host.view = some (.ok r) →
      runStmt (.ifNotOkGoto l) sys = .next sys.advance) ∧
    (∀ c, sys.host.view = some (.error c) →
      runStmt (.ifNotOkGoto l) sys = .next { sys with host := { sys.host with index := i } }) ∧
    (sys.host.view = none →
      ∃ t, runStmt (.ifNotOkGoto l) sys = .next t ∧
        (t.host.index = sys.host.index + 1 ∨ t.host.index = i) ∧ t.block = sys.block ∧
        t.host.buffers = sys.host.buffers ∧ t.host.vars = sys.host.vars) ∧
    runStmt (.goto l) sys = .next { sys with host := { sys.host with index := i } } ∧
    ∃ t, runStmt .halt sys = .next t ∧ t.host.halted = true ∧ t.step = .next t

/-- R62, R95, R113: a statement keeps the host's stores canonical, waits for its response, leaves the
standing response legal (R21, R22), and never takes an entry out of the fault log. The canonical form of the
stores is the model's (log entry 1, DEDUCED). That a statement is one step of the
host model (log entry 18) and that a step after HALT changes nothing (log entry 17) are the model's choices. -/
def Obligations.StatementsKeepTheHostLegal : Prop :=
  ∀ sys t : System, sys.host.wf = true → sys.block.notExecuting → sys.block.wf = true →
    sys.step = .next t →
    t.host.wf = true ∧ t.block.notExecuting ∧ t.block.wf = true ∧
      sys.host.faultLog <+: t.host.faultLog ∧ t.host.script = sys.host.script
end

