-- ==== Sys2Proof/Laws/Decode.lean ====
section
/-! SUPPORT. Words, fields and commands. -/

namespace Sys2Proof

/-- The fields of an encoded command are the command's own. -/
theorem fieldsOf_encode (i : Instr) : fieldsOf (encode i) = i.fields := by
  rcases i with _ | _ | ⟨f, a, s⟩
  · decide
  · decide
  · cases a <;> cases s <;> revert f <;> decide

/-- The decoder answers a command exactly on its fields. -/
theorem commandOf_eq_ok {c : CommandFields} {i : Instr} : commandOf c = .ok i ↔ c = i.fields := by
  obtain ⟨op, a, s, rsv, f⟩ := c
  constructor
  · intro h
    simp only [commandOf] at h
    split at h
    · cases h
    next h1 =>
    split at h
    · cases h
    next h2 =>
    split at h
    · cases h
    next h3 =>
    simp [CommandFields.opAssigned, CommandFields.reservedClear, CommandFields.operandsClear] at h1 h2 h3
    split at h
    · next h4 =>
      cases h
      subst h4
      simp_all [Instr.fields]
    next h4 =>
    split at h
    · next h5 =>
      cases h
      subst h5
      simp_all [Instr.fields]
    next h5 =>
    cases h
    have h6 : op = 2 := by
      clear h3
      revert op
      decide
    simp [Instr.fields, h6, h2]
  · intro h
    rw [h]
    rcases i with _ | _ | ⟨f, a, s⟩ <;> rfl

/-- A word is legal exactly when its fields are well formed. -/
theorem commandOf_isOk (c : CommandFields) : (∃ i, commandOf c = .ok i) ↔ c.wf = true := by
  unfold commandOf CommandFields.wf
  cases c.opAssigned <;> cases c.reservedClear <;> cases c.operandsClear <;> simp
  split
  · exact ⟨_, rfl⟩
  · split <;> exact ⟨_, rfl⟩

/-- A word is determined by its fields. -/
theorem fieldsOf_injective {w v : Word} (h : fieldsOf w = fieldsOf v) : w = v := by
  simp only [fieldsOf, CommandFields.mk.injEq] at h
  obtain ⟨h0, h2, h3, h4, h8⟩ := h
  apply BitVec.eq_of_getLsbD_eq
  intro i hi
  have g0 := fun k => congrArg (fun (x : BitVec 2) => x.getLsbD k) h0
  have g4 := fun k => congrArg (fun (x : BitVec 4) => x.getLsbD k) h4
  have g8 := fun k => congrArg (fun (x : BitVec 8) => x.getLsbD k) h8
  simp only [BitVec.getLsbD_extractLsb'] at g0 g4 g8
  rcases Nat.lt_or_ge i 2 with hlt | hge
  · simpa [hlt] using g0 i
  · rcases Nat.lt_or_ge i 4 with hlt | hge4
    · have : i = 2 ∨ i = 3 := by omega
      rcases this with rfl | rfl <;> assumption
    · rcases Nat.lt_or_ge i 8 with hlt | hge8
      · simpa [show i - 4 < 4 by omega, show 4 + (i - 4) = i by omega] using g4 (i - 4)
      · simpa [show i - 8 < 8 by omega, show 8 + (i - 8) = i by omega] using g8 (i - 8)

end Sys2Proof
end

