-- ==== Sys2Proof/Laws/Flags.lean ====
section
/-! SUPPORT. The flags byte, bit by bit. -/

namespace Sys2Proof.Machine

/-- A name's mask is the mask of its bit (R32). -/
theorem FlagName.mask_getLsbD (n : FlagName) (i : Nat) (hi : i < 8) :
    n.mask.getLsbD i = (i == n.bit) := by
  cases n <;> interval_cases i <;> rfl

/-- `Name(i)` stands for bit i (R66). -/
@[simp] theorem flagNameOf_bit (i : Fin 6) : (flagNameOf i).bit = i := by
  revert i; decide

/-- ACTIVE[i] is bit i of the flags byte (R64). -/
theorem activeBits_getLsbD (flags : Byte) (i : Nat) (hi : i < 6) :
    (activeBits flags).getLsbD i = flags.getLsbD i := by
  simp [activeBits, hi]

/-- TRANSFORM's flags byte: bit 4 is set when SYN is, every other bit is unchanged (R78). -/
theorem replyFlags_getLsbD (flags : Byte) (i : Nat) (hi : i < 8) :
    (replyFlags flags).getLsbD i =
      if i = 4 then flags.getLsbD 4 || flags.getLsbD 1 else flags.getLsbD i := by
  unfold replyFlags
  split
  · next h =>
    rw [BitVec.getLsbD_or]
    interval_cases i <;> simp_all [synAckOr, synBit]
  · next h =>
    split
    · next h4 => subst h4; simp_all [synBit]
    · rfl

/-- An edit of one mask, bit by bit (R84). -/
theorem editMask_getLsbD (mask flags : Byte) (want : Bool) (i : Nat) (hi : i < 8) :
    (editMask mask want flags).getLsbD i =
      if mask.getLsbD i then want else flags.getLsbD i := by
  cases want <;> cases h : mask.getLsbD i <;>
    simp only [editMask, Bool.false_eq_true, if_false, if_true, BitVec.getLsbD_or,
      BitVec.getLsbD_and, BitVec.getLsbD_not, h, hi, decide_true, Bool.not_false,
      Bool.not_true, Bool.and_true, Bool.and_false, Bool.or_true, Bool.or_false]

/-- SETFLAGS's byte: bit 5 is A, bit 4 is S, every other bit is the input's (R83, R84). -/
theorem editFlags_getLsbD (f : Byte) (a s : Bool) (i : Nat) (hi : i < 8) :
    (editFlags f a s).getLsbD i =
      if i = 5 then a else if i = 4 then s else f.getLsbD i := by
  rw [editFlags, editMask_getLsbD _ _ _ _ hi, editMask_getLsbD _ _ _ _ hi]
  interval_cases i <;> rfl

end Sys2Proof.Machine
end

