-- ==== Sys2Proof/Laws/Operands.lean ====
section
/-! SUPPORT. What the field accesses read and write. -/

namespace Sys2Proof.Machine

/-! The length check. -/

@[simp] theorem headerOf_toList (buf : Header) : headerOf buf.toList = some buf := by
  simp only [headerOf, Vector.length_toList, dite_true]
  rfl

theorem headerOf_of_length_ne {req : List Byte} (h : req.length ≠ hdrLen) : headerOf req = none := by
  simp [headerOf, h]

/-- The length check passes exactly on the byte lists of headers. -/
theorem headerOf_eq_some {req : List Byte} {buf : Header} (h : headerOf req = some buf) :
    req = buf.toList := by
  unfold headerOf at h
  split at h
  · cases h; simp [Vector.toList]
  · cases h

/-- A request is the byte list of a header or is of another length. -/
theorem header_or_length_ne (req : List Byte) :
    (∃ buf : Header, req = buf.toList) ∨ req.length ≠ hdrLen := by
  by_cases h : req.length = hdrLen
  · exact .inl ⟨⟨req.toArray, by simpa using h⟩, by simp [Vector.toList]⟩
  · exact .inr h

/-! Reads. -/

theorem byteAt_eq (buf : Header) (off : Nat) (h : off < hdrLen) : byteAt buf off h = buf[off]'h := rfl

/-- A 16-bit field is its two bytes, the lower offset in the low half (R35). -/
theorem rd16_eq_append (buf : Header) (off : Nat) (h : off + 1 < hdrLen) :
    rd16 buf off h = Reference.word16 buf[off + 1] buf[off] := by
  simp only [rd16, byteAt, Reference.word16]
  generalize buf[off + 1] = x
  generalize buf[off] = y
  ext i hi
  simp only [BitVec.getElem_or, BitVec.getElem_setWidth, BitVec.getElem_shiftLeft,
    BitVec.getElem_cast, BitVec.getElem_append]
  split
  · next hlt => simp [hlt]
  · next hlt =>
    simp [hlt, BitVec.getLsbD_of_ge y i (by omega), BitVec.getLsbD_eq_getElem (show i - 8 < 8 by omega)]

/-- A 32-bit field is its four bytes (R36). -/
theorem rd32_eq_append (buf : Header) (off : Nat) (h : off + 3 < hdrLen) :
    rd32 buf off h = Reference.word32 buf[off + 3] buf[off + 2] buf[off + 1] buf[off] := by
  simp only [rd32, byteAt, Reference.word32]
  generalize buf[off] = b0
  generalize buf[off + 1] = b1
  generalize buf[off + 2] = b2
  generalize buf[off + 3] = b3
  have g : ∀ (b : Byte) (k : Nat), 8 ≤ k → b.getLsbD k = false :=
    fun b k hk => BitVec.getLsbD_of_ge _ _ hk
  ext i hi
  simp only [BitVec.getElem_or, BitVec.getElem_setWidth, BitVec.getElem_shiftLeft,
    BitVec.getElem_cast, BitVec.getElem_append]
  rcases Nat.lt_or_ge i 8 with h1 | h1
  · simp [h1, show i < 16 by omega, show i < 24 by omega]
  · rcases Nat.lt_or_ge i 16 with h2 | h2
    · simp [show ¬ i < 8 by omega, h2, show i < 24 by omega, g b0 i h1,
        BitVec.getLsbD_eq_getElem (show i - 8 < 8 by omega)]
    · rcases Nat.lt_or_ge i 24 with h3 | h3
      · simp [show ¬ i < 8 by omega, show ¬ i < 16 by omega, h3, g b0 i h1,
          g b1 (i - 8) (by omega), show i - 16 < 8 by omega]
      · simp [show ¬ i < 8 by omega, show ¬ i < 16 by omega, show ¬ i < 24 by omega, g b0 i h1,
          g b1 (i - 8) (by omega), g b2 (i - 16) (by omega), show ¬ i - 16 < 8 by omega,
          show i - 16 - 8 = i - 24 by omega, BitVec.getLsbD_eq_getElem (show i - 24 < 8 by omega)]

/-- Two bytes read as a span. -/
theorem memRead_two (buf : Header) (off : Nat) (h : off + 1 < hdrLen) :
    memRead buf off 2 = [buf[off], buf[off + 1]] := by
  apply List.ext_getElem
  · simp [memRead]; omega
  · intro i h1 h2
    have : i < 2 := by simpa using h2
    interval_cases i <;> simp [memRead]

/-- Four bytes read as a span. -/
theorem memRead_four (buf : Header) (off : Nat) (h : off + 3 < hdrLen) :
    memRead buf off 4 = [buf[off], buf[off + 1], buf[off + 2], buf[off + 3]] := by
  apply List.ext_getElem
  · simp [memRead]; omega
  · intro i h1 h2
    have : i < 4 := by simpa using h2
    interval_cases i <;> simp [memRead]

/-- Six bytes read as a span. -/
theorem memRead_six (buf : Header) (off : Nat) (h : off + 5 < hdrLen) :
    memRead buf off 6 =
      [buf[off], buf[off + 1], buf[off + 2], buf[off + 3], buf[off + 4], buf[off + 5]] := by
  apply List.ext_getElem
  · simp [memRead]; omega
  · intro i h1 h2
    have : i < 6 := by simpa using h2
    interval_cases i <;> simp [memRead]

/-! Writes. -/

/-- A cell changes the byte at its own offset and no other. -/
theorem storeCell_getElem (buf : Header) (c : Host.Cell) (i : Nat) (h : i < hdrLen) :
    (storeCell buf c)[i] = if c.1 = i then c.2 else buf[i] := by
  simp only [storeCell, Vector.getElem_setIfInBounds]

@[simp] theorem storeCells_nil (buf : Header) : storeCells buf [] = buf := rfl

@[simp] theorem storeCells_cons (buf : Header) (c : Host.Cell) (cs : List Host.Cell) :
    storeCells buf (c :: cs) = storeCells (storeCell buf c) cs := rfl

/-- An offset that no cell names keeps its byte. -/
theorem storeCells_getElem_of_not_mem (buf : Header) (cells : List Host.Cell) (i : Nat)
    (h : i < hdrLen) (hn : i ∉ cells.map Prod.fst) : (storeCells buf cells)[i] = buf[i] := by
  induction cells generalizing buf with
  | nil => rfl
  | cons c cs ih =>
    simp only [List.map_cons, List.mem_cons, not_or] at hn
    rw [storeCells_cons, ih _ hn.2, storeCell_getElem, if_neg (Ne.symm hn.1)]

/-- The twenty writes of a TRANSFORM, offset by offset in the order of R71. -/
theorem responseWrites_eq (buf : Header) :
    responseWrites buf =
      [(0, buf[2]), (1, buf[3]),
       (2, (scramble (rd16 buf 0)).extractLsb' 0 8), (3, (scramble (rd16 buf 0)).extractLsb' 8 8),
       (4, (rd32 buf 4 + 1).extractLsb' 0 8), (5, (rd32 buf 4 + 1).extractLsb' 8 8),
       (6, (rd32 buf 4 + 1).extractLsb' 16 8), (7, (rd32 buf 4 + 1).extractLsb' 24 8),
       (8, buf[4]), (9, buf[5]), (10, buf[6]), (11, buf[7]), (12, buf[12]),
       (13, replyFlags buf[13]),
       (14, buf[14]), (15, buf[15]), (16, buf[16]), (17, buf[17]), (18, buf[18]), (19, buf[19])] := by
  simp only [responseWrites, memRead_two buf offDst (by decide), memRead_four buf offSeq (by decide),
    memRead_six buf offRem (by decide), wr16, wr32]
  rfl

/-- TRANSFORM's response, byte by byte. -/
theorem transformInto_eq (blank buf : Header) :
    transformInto blank buf =
      #v[buf[2], buf[3],
       (scramble (rd16 buf 0)).extractLsb' 0 8, (scramble (rd16 buf 0)).extractLsb' 8 8,
       (rd32 buf 4 + 1).extractLsb' 0 8, (rd32 buf 4 + 1).extractLsb' 8 8,
       (rd32 buf 4 + 1).extractLsb' 16 8, (rd32 buf 4 + 1).extractLsb' 24 8,
       buf[4], buf[5], buf[6], buf[7], buf[12], replyFlags buf[13],
       buf[14], buf[15], buf[16], buf[17], buf[18], buf[19]] := by
  rw [transformInto, responseWrites_eq]
  ext i hi
  simp only [storeCells_cons, storeCells_nil, storeCell_getElem]
  have : i < 20 := hi
  interval_cases i <;> rfl

/-! Fields of a value written little-endian, read back. -/

/-- Two bytes as a word, bit by bit. -/
theorem word16_getLsbD (b1 b0 : Byte) (i : Nat) :
    (Reference.word16 b1 b0).getLsbD i = if i < 8 then b0.getLsbD i else b1.getLsbD (i - 8) := by
  simp only [Reference.word16, BitVec.getLsbD_cast, BitVec.getLsbD_append]

/-- Four bytes as a word, bit by bit. -/
theorem word32_getLsbD (b3 b2 b1 b0 : Byte) (i : Nat) :
    (Reference.word32 b3 b2 b1 b0).getLsbD i =
      if i < 8 then b0.getLsbD i
      else if i < 16 then b1.getLsbD (i - 8)
      else if i < 24 then b2.getLsbD (i - 16)
      else b3.getLsbD (i - 24) := by
  simp only [Reference.word32, BitVec.getLsbD_cast, BitVec.getLsbD_append]
  split_ifs <;> first | rfl | omega

/-- The bytes of two bytes as a word. -/
theorem word16_bytes (b1 b0 : Byte) :
    (Reference.word16 b1 b0).extractLsb' 0 8 = b0 ∧
      (Reference.word16 b1 b0).extractLsb' 8 8 = b1 := by
  constructor <;> apply BitVec.eq_of_getLsbD_eq <;> intro i hi <;>
    simp only [BitVec.getLsbD_extractLsb', word16_getLsbD] <;> simp [hi]

/-- The bytes of four bytes as a word. -/
theorem word32_bytes (b3 b2 b1 b0 : Byte) :
    (Reference.word32 b3 b2 b1 b0).extractLsb' 0 8 = b0 ∧
      (Reference.word32 b3 b2 b1 b0).extractLsb' 8 8 = b1 ∧
      (Reference.word32 b3 b2 b1 b0).extractLsb' 16 8 = b2 ∧
      (Reference.word32 b3 b2 b1 b0).extractLsb' 24 8 = b3 := by
  refine ⟨?_, ?_, ?_, ?_⟩ <;> apply BitVec.eq_of_getLsbD_eq <;> intro i hi <;>
    simp only [BitVec.getLsbD_extractLsb', word32_getLsbD]
  · simp [hi]
  · simp [hi, show 8 + i < 16 by omega]
  · simp [hi, show ¬ 16 + i < 8 by omega, show 16 + i < 24 by omega]
  · simp [hi, show ¬ 24 + i < 8 by omega, show ¬ 24 + i < 16 by omega]

theorem word16_extract (v : BitVec 16) :
    Reference.word16 (v.extractLsb' 8 8) (v.extractLsb' 0 8) = v := by
  ext i hi
  simp only [Reference.word16, BitVec.getElem_cast, BitVec.getElem_append,
    BitVec.getElem_extractLsb']
  split
  · simp [BitVec.getLsbD_eq_getElem hi]
  · rw [show 8 + (i - 8) = i by omega, BitVec.getLsbD_eq_getElem hi]

theorem word32_extract (v : BitVec 32) :
    Reference.word32 (v.extractLsb' 24 8) (v.extractLsb' 16 8) (v.extractLsb' 8 8)
      (v.extractLsb' 0 8) = v := by
  ext i hi
  simp only [Reference.word32, BitVec.getElem_cast, BitVec.getElem_append,
    BitVec.getElem_extractLsb']
  have e := BitVec.getLsbD_eq_getElem (x := v) hi
  rcases Nat.lt_or_ge i 8 with h1 | h1
  · simp [h1, show i < 16 by omega, e]
  · rcases Nat.lt_or_ge i 16 with h2 | h2
    · simp [show ¬ i < 8 by omega, h2, show 8 + (i - 8) = i by omega, e]
    · rcases Nat.lt_or_ge i 24 with h3 | h3
      · simp [show ¬ i < 16 by omega, show i - 16 < 8 by omega, show 16 + (i - 16) = i by omega, e]
      · simp [show ¬ i < 16 by omega, show ¬ i - 16 < 8 by omega,
          show 24 + (i - 16 - 8) = i by omega, e]

end Sys2Proof.Machine
end

