-- ==== Sys2Proof/Laws/State.lean ====
section
/-! SUPPORT. One lemma per field of the state and update of it, so that no proof unfolds an update. -/

namespace Sys2Proof.Machine

/-! `State.release` -/

@[simp] theorem State.release_cmd (s : State) :
    (s.release).cmd = s.cmd := rfl

@[simp] theorem State.release_req (s : State) :
    (s.release).req = s.req := rfl

@[simp] theorem State.release_phase (s : State) :
    (s.release).phase = s.phase := rfl

@[simp] theorem State.release_status (s : State) :
    (s.release).status = Config.freeStatus s.stream s.draws := rfl

@[simp] theorem State.release_srcPort (s : State) :
    (s.release).srcPort = Config.freeSrcPort s.stream s.draws := rfl

@[simp] theorem State.release_dstPort (s : State) :
    (s.release).dstPort = Config.freeDstPort s.stream s.draws := rfl

@[simp] theorem State.release_seq (s : State) :
    (s.release).seq = Config.freeSeq s.stream s.draws := rfl

@[simp] theorem State.release_ack (s : State) :
    (s.release).ack = Config.freeAck s.stream s.draws := rfl

@[simp] theorem State.release_active (s : State) :
    (s.release).active = Config.freeActive s.stream s.draws := rfl

@[simp] theorem State.release_resp (s : State) :
    (s.release).resp = Config.freeResp s.stream s.draws := rfl

@[simp] theorem State.release_flagsOut (s : State) :
    (s.release).flagsOut = Config.freeFlagsOut s.stream s.draws := rfl

@[simp] theorem State.release_draws (s : State) :
    (s.release).draws = s.draws + 1 := rfl

@[simp] theorem State.release_stream (s : State) :
    (s.release).stream = s.stream := rfl

/-! `State.raise` -/

@[simp] theorem State.raise_cmd (c : Cause) (s : State) :
    (s.raise c).cmd = s.cmd := rfl

@[simp] theorem State.raise_req (c : Cause) (s : State) :
    (s.raise c).req = s.req := rfl

@[simp] theorem State.raise_phase (c : Cause) (s : State) :
    (s.raise c).phase = .answered .nothing := rfl

@[simp] theorem State.raise_status (c : Cause) (s : State) :
    (s.raise c).status = c.status.code := rfl

@[simp] theorem State.raise_srcPort (c : Cause) (s : State) :
    (s.raise c).srcPort = Config.freeSrcPort s.stream s.draws := rfl

@[simp] theorem State.raise_dstPort (c : Cause) (s : State) :
    (s.raise c).dstPort = Config.freeDstPort s.stream s.draws := rfl

@[simp] theorem State.raise_seq (c : Cause) (s : State) :
    (s.raise c).seq = Config.freeSeq s.stream s.draws := rfl

@[simp] theorem State.raise_ack (c : Cause) (s : State) :
    (s.raise c).ack = Config.freeAck s.stream s.draws := rfl

@[simp] theorem State.raise_active (c : Cause) (s : State) :
    (s.raise c).active = Config.freeActive s.stream s.draws := rfl

@[simp] theorem State.raise_resp (c : Cause) (s : State) :
    (s.raise c).resp = Config.freeResp s.stream s.draws := rfl

@[simp] theorem State.raise_flagsOut (c : Cause) (s : State) :
    (s.raise c).flagsOut = Config.freeFlagsOut s.stream s.draws := rfl

@[simp] theorem State.raise_draws (c : Cause) (s : State) :
    (s.raise c).draws = s.draws + 1 := rfl

@[simp] theorem State.raise_stream (c : Cause) (s : State) :
    (s.raise c).stream = s.stream := rfl

/-! `State.succeed`, per operation -/

@[simp] theorem State.succeed_decoded_cmd (sp dp : BitVec 16) (sq ak : BitVec 32) (ac : BitVec 6) (s : State) :
    (s.succeed (.decoded sp dp sq ak ac)).cmd = s.cmd := rfl

@[simp] theorem State.succeed_decoded_req (sp dp : BitVec 16) (sq ak : BitVec 32) (ac : BitVec 6) (s : State) :
    (s.succeed (.decoded sp dp sq ak ac)).req = s.req := rfl

@[simp] theorem State.succeed_decoded_phase (sp dp : BitVec 16) (sq ak : BitVec 32) (ac : BitVec 6) (s : State) :
    (s.succeed (.decoded sp dp sq ak ac)).phase = .answered .decoded := rfl

@[simp] theorem State.succeed_decoded_status (sp dp : BitVec 16) (sq ak : BitVec 32) (ac : BitVec 6) (s : State) :
    (s.succeed (.decoded sp dp sq ak ac)).status = Status.ok.code := rfl

@[simp] theorem State.succeed_decoded_srcPort (sp dp : BitVec 16) (sq ak : BitVec 32) (ac : BitVec 6) (s : State) :
    (s.succeed (.decoded sp dp sq ak ac)).srcPort = sp := rfl

@[simp] theorem State.succeed_decoded_dstPort (sp dp : BitVec 16) (sq ak : BitVec 32) (ac : BitVec 6) (s : State) :
    (s.succeed (.decoded sp dp sq ak ac)).dstPort = dp := rfl

@[simp] theorem State.succeed_decoded_seq (sp dp : BitVec 16) (sq ak : BitVec 32) (ac : BitVec 6) (s : State) :
    (s.succeed (.decoded sp dp sq ak ac)).seq = sq := rfl

@[simp] theorem State.succeed_decoded_ack (sp dp : BitVec 16) (sq ak : BitVec 32) (ac : BitVec 6) (s : State) :
    (s.succeed (.decoded sp dp sq ak ac)).ack = ak := rfl

@[simp] theorem State.succeed_decoded_active (sp dp : BitVec 16) (sq ak : BitVec 32) (ac : BitVec 6) (s : State) :
    (s.succeed (.decoded sp dp sq ak ac)).active = ac := rfl

@[simp] theorem State.succeed_decoded_resp (sp dp : BitVec 16) (sq ak : BitVec 32) (ac : BitVec 6) (s : State) :
    (s.succeed (.decoded sp dp sq ak ac)).resp = Config.freeResp s.stream s.draws := rfl

@[simp] theorem State.succeed_decoded_flagsOut (sp dp : BitVec 16) (sq ak : BitVec 32) (ac : BitVec 6) (s : State) :
    (s.succeed (.decoded sp dp sq ak ac)).flagsOut = Config.freeFlagsOut s.stream s.draws := rfl

@[simp] theorem State.succeed_decoded_draws (sp dp : BitVec 16) (sq ak : BitVec 32) (ac : BitVec 6) (s : State) :
    (s.succeed (.decoded sp dp sq ak ac)).draws = s.draws + 1 := rfl

@[simp] theorem State.succeed_decoded_stream (sp dp : BitVec 16) (sq ak : BitVec 32) (ac : BitVec 6) (s : State) :
    (s.succeed (.decoded sp dp sq ak ac)).stream = s.stream := rfl

@[simp] theorem State.succeed_header_cmd (h : Header) (s : State) :
    (s.succeed (.header h)).cmd = s.cmd := rfl

@[simp] theorem State.succeed_header_req (h : Header) (s : State) :
    (s.succeed (.header h)).req = s.req := rfl

@[simp] theorem State.succeed_header_phase (h : Header) (s : State) :
    (s.succeed (.header h)).phase = .answered .header := rfl

@[simp] theorem State.succeed_header_status (h : Header) (s : State) :
    (s.succeed (.header h)).status = Status.ok.code := rfl

@[simp] theorem State.succeed_header_srcPort (h : Header) (s : State) :
    (s.succeed (.header h)).srcPort = Config.freeSrcPort s.stream s.draws := rfl

@[simp] theorem State.succeed_header_dstPort (h : Header) (s : State) :
    (s.succeed (.header h)).dstPort = Config.freeDstPort s.stream s.draws := rfl

@[simp] theorem State.succeed_header_seq (h : Header) (s : State) :
    (s.succeed (.header h)).seq = Config.freeSeq s.stream s.draws := rfl

@[simp] theorem State.succeed_header_ack (h : Header) (s : State) :
    (s.succeed (.header h)).ack = Config.freeAck s.stream s.draws := rfl

@[simp] theorem State.succeed_header_active (h : Header) (s : State) :
    (s.succeed (.header h)).active = Config.freeActive s.stream s.draws := rfl

@[simp] theorem State.succeed_header_resp (h : Header) (s : State) :
    (s.succeed (.header h)).resp = h := rfl

@[simp] theorem State.succeed_header_flagsOut (h : Header) (s : State) :
    (s.succeed (.header h)).flagsOut = Config.freeFlagsOut s.stream s.draws := rfl

@[simp] theorem State.succeed_header_draws (h : Header) (s : State) :
    (s.succeed (.header h)).draws = s.draws + 1 := rfl

@[simp] theorem State.succeed_header_stream (h : Header) (s : State) :
    (s.succeed (.header h)).stream = s.stream := rfl

@[simp] theorem State.succeed_flags_cmd (f : Byte) (s : State) :
    (s.succeed (.flags f)).cmd = s.cmd := rfl

@[simp] theorem State.succeed_flags_req (f : Byte) (s : State) :
    (s.succeed (.flags f)).req = s.req := rfl

@[simp] theorem State.succeed_flags_phase (f : Byte) (s : State) :
    (s.succeed (.flags f)).phase = .answered .flags := rfl

@[simp] theorem State.succeed_flags_status (f : Byte) (s : State) :
    (s.succeed (.flags f)).status = Status.ok.code := rfl

@[simp] theorem State.succeed_flags_srcPort (f : Byte) (s : State) :
    (s.succeed (.flags f)).srcPort = Config.freeSrcPort s.stream s.draws := rfl

@[simp] theorem State.succeed_flags_dstPort (f : Byte) (s : State) :
    (s.succeed (.flags f)).dstPort = Config.freeDstPort s.stream s.draws := rfl

@[simp] theorem State.succeed_flags_seq (f : Byte) (s : State) :
    (s.succeed (.flags f)).seq = Config.freeSeq s.stream s.draws := rfl

@[simp] theorem State.succeed_flags_ack (f : Byte) (s : State) :
    (s.succeed (.flags f)).ack = Config.freeAck s.stream s.draws := rfl

@[simp] theorem State.succeed_flags_active (f : Byte) (s : State) :
    (s.succeed (.flags f)).active = Config.freeActive s.stream s.draws := rfl

@[simp] theorem State.succeed_flags_resp (f : Byte) (s : State) :
    (s.succeed (.flags f)).resp = Config.freeResp s.stream s.draws := rfl

@[simp] theorem State.succeed_flags_flagsOut (f : Byte) (s : State) :
    (s.succeed (.flags f)).flagsOut = f := rfl

@[simp] theorem State.succeed_flags_draws (f : Byte) (s : State) :
    (s.succeed (.flags f)).draws = s.draws + 1 := rfl

@[simp] theorem State.succeed_flags_stream (f : Byte) (s : State) :
    (s.succeed (.flags f)).stream = s.stream := rfl

/-! The host's port writes -/

@[simp] theorem State.writeCmd_cmd (w : Word) (s : State) :
    (s.writeCmd w).cmd = w := rfl

@[simp] theorem State.writeCmd_req (w : Word) (s : State) :
    (s.writeCmd w).req = s.req := rfl

@[simp] theorem State.writeCmd_phase (w : Word) (s : State) :
    (s.writeCmd w).phase = s.phase := rfl

@[simp] theorem State.writeCmd_status (w : Word) (s : State) :
    (s.writeCmd w).status = s.status := rfl

@[simp] theorem State.writeCmd_srcPort (w : Word) (s : State) :
    (s.writeCmd w).srcPort = s.srcPort := rfl

@[simp] theorem State.writeCmd_dstPort (w : Word) (s : State) :
    (s.writeCmd w).dstPort = s.dstPort := rfl

@[simp] theorem State.writeCmd_seq (w : Word) (s : State) :
    (s.writeCmd w).seq = s.seq := rfl

@[simp] theorem State.writeCmd_ack (w : Word) (s : State) :
    (s.writeCmd w).ack = s.ack := rfl

@[simp] theorem State.writeCmd_active (w : Word) (s : State) :
    (s.writeCmd w).active = s.active := rfl

@[simp] theorem State.writeCmd_resp (w : Word) (s : State) :
    (s.writeCmd w).resp = s.resp := rfl

@[simp] theorem State.writeCmd_flagsOut (w : Word) (s : State) :
    (s.writeCmd w).flagsOut = s.flagsOut := rfl

@[simp] theorem State.writeCmd_draws (w : Word) (s : State) :
    (s.writeCmd w).draws = s.draws := rfl

@[simp] theorem State.writeCmd_stream (w : Word) (s : State) :
    (s.writeCmd w).stream = s.stream := rfl

@[simp] theorem State.writeReq_cmd (bytes : List Byte) (s : State) :
    (s.writeReq bytes).cmd = s.cmd := rfl

@[simp] theorem State.writeReq_req (bytes : List Byte) (s : State) :
    (s.writeReq bytes).req = bytes := rfl

@[simp] theorem State.writeReq_phase (bytes : List Byte) (s : State) :
    (s.writeReq bytes).phase = s.phase := rfl

@[simp] theorem State.writeReq_status (bytes : List Byte) (s : State) :
    (s.writeReq bytes).status = s.status := rfl

@[simp] theorem State.writeReq_srcPort (bytes : List Byte) (s : State) :
    (s.writeReq bytes).srcPort = s.srcPort := rfl

@[simp] theorem State.writeReq_dstPort (bytes : List Byte) (s : State) :
    (s.writeReq bytes).dstPort = s.dstPort := rfl

@[simp] theorem State.writeReq_seq (bytes : List Byte) (s : State) :
    (s.writeReq bytes).seq = s.seq := rfl

@[simp] theorem State.writeReq_ack (bytes : List Byte) (s : State) :
    (s.writeReq bytes).ack = s.ack := rfl

@[simp] theorem State.writeReq_active (bytes : List Byte) (s : State) :
    (s.writeReq bytes).active = s.active := rfl

@[simp] theorem State.writeReq_resp (bytes : List Byte) (s : State) :
    (s.writeReq bytes).resp = s.resp := rfl

@[simp] theorem State.writeReq_flagsOut (bytes : List Byte) (s : State) :
    (s.writeReq bytes).flagsOut = s.flagsOut := rfl

@[simp] theorem State.writeReq_draws (bytes : List Byte) (s : State) :
    (s.writeReq bytes).draws = s.draws := rfl

@[simp] theorem State.writeReq_stream (bytes : List Byte) (s : State) :
    (s.writeReq bytes).stream = s.stream := rfl

/-! `State.latch` -/

@[simp] theorem State.latch_cmd (s : State) :
    (s.latch).cmd = s.cmd := rfl

@[simp] theorem State.latch_req (s : State) :
    (s.latch).req = s.req := rfl

@[simp] theorem State.latch_phase (s : State) :
    (s.latch).phase = .executing s.cmd s.req := rfl

@[simp] theorem State.latch_status (s : State) :
    (s.latch).status = Config.freeStatus s.stream s.draws := rfl

@[simp] theorem State.latch_srcPort (s : State) :
    (s.latch).srcPort = Config.freeSrcPort s.stream s.draws := rfl

@[simp] theorem State.latch_dstPort (s : State) :
    (s.latch).dstPort = Config.freeDstPort s.stream s.draws := rfl

@[simp] theorem State.latch_seq (s : State) :
    (s.latch).seq = Config.freeSeq s.stream s.draws := rfl

@[simp] theorem State.latch_ack (s : State) :
    (s.latch).ack = Config.freeAck s.stream s.draws := rfl

@[simp] theorem State.latch_active (s : State) :
    (s.latch).active = Config.freeActive s.stream s.draws := rfl

@[simp] theorem State.latch_resp (s : State) :
    (s.latch).resp = Config.freeResp s.stream s.draws := rfl

@[simp] theorem State.latch_flagsOut (s : State) :
    (s.latch).flagsOut = Config.freeFlagsOut s.stream s.draws := rfl

@[simp] theorem State.latch_draws (s : State) :
    (s.latch).draws = s.draws + 1 := rfl

@[simp] theorem State.latch_stream (s : State) :
    (s.latch).stream = s.stream := rfl

/-! `State.assertReset` -/

@[simp] theorem State.assertReset_cmd (s : State) :
    (s.assertReset).cmd = Config.freeCmd s.stream s.draws := rfl

@[simp] theorem State.assertReset_req (s : State) :
    (s.assertReset).req = Config.freeReq s.stream s.draws := rfl

@[simp] theorem State.assertReset_phase (s : State) :
    (s.assertReset).phase = .idle := rfl

@[simp] theorem State.assertReset_status (s : State) :
    (s.assertReset).status = Config.freeStatus s.stream s.draws := rfl

@[simp] theorem State.assertReset_srcPort (s : State) :
    (s.assertReset).srcPort = Config.freeSrcPort s.stream s.draws := rfl

@[simp] theorem State.assertReset_dstPort (s : State) :
    (s.assertReset).dstPort = Config.freeDstPort s.stream s.draws := rfl

@[simp] theorem State.assertReset_seq (s : State) :
    (s.assertReset).seq = Config.freeSeq s.stream s.draws := rfl

@[simp] theorem State.assertReset_ack (s : State) :
    (s.assertReset).ack = Config.freeAck s.stream s.draws := rfl

@[simp] theorem State.assertReset_active (s : State) :
    (s.assertReset).active = Config.freeActive s.stream s.draws := rfl

@[simp] theorem State.assertReset_resp (s : State) :
    (s.assertReset).resp = Config.freeResp s.stream s.draws := rfl

@[simp] theorem State.assertReset_flagsOut (s : State) :
    (s.assertReset).flagsOut = Config.freeFlagsOut s.stream s.draws := rfl

@[simp] theorem State.assertReset_draws (s : State) :
    (s.assertReset).draws = s.draws + 1 := rfl

@[simp] theorem State.assertReset_stream (s : State) :
    (s.assertReset).stream = s.stream := rfl

/-! `State.withFetchWord` -/

@[simp] theorem State.withFetchWord_cmd (n w : Nat) (s : State) :
    (s.withFetchWord n w).cmd = BitVec.ofNat 16 (w % 2 ^ n) := rfl

@[simp] theorem State.withFetchWord_req (n w : Nat) (s : State) :
    (s.withFetchWord n w).req = s.req := rfl

@[simp] theorem State.withFetchWord_phase (n w : Nat) (s : State) :
    (s.withFetchWord n w).phase = .executing (BitVec.ofNat 16 (w % 2 ^ n)) s.req := rfl

@[simp] theorem State.withFetchWord_status (n w : Nat) (s : State) :
    (s.withFetchWord n w).status = s.status := rfl

@[simp] theorem State.withFetchWord_srcPort (n w : Nat) (s : State) :
    (s.withFetchWord n w).srcPort = s.srcPort := rfl

@[simp] theorem State.withFetchWord_dstPort (n w : Nat) (s : State) :
    (s.withFetchWord n w).dstPort = s.dstPort := rfl

@[simp] theorem State.withFetchWord_seq (n w : Nat) (s : State) :
    (s.withFetchWord n w).seq = s.seq := rfl

@[simp] theorem State.withFetchWord_ack (n w : Nat) (s : State) :
    (s.withFetchWord n w).ack = s.ack := rfl

@[simp] theorem State.withFetchWord_active (n w : Nat) (s : State) :
    (s.withFetchWord n w).active = s.active := rfl

@[simp] theorem State.withFetchWord_resp (n w : Nat) (s : State) :
    (s.withFetchWord n w).resp = s.resp := rfl

@[simp] theorem State.withFetchWord_flagsOut (n w : Nat) (s : State) :
    (s.withFetchWord n w).flagsOut = s.flagsOut := rfl

@[simp] theorem State.withFetchWord_draws (n w : Nat) (s : State) :
    (s.withFetchWord n w).draws = s.draws := rfl

@[simp] theorem State.withFetchWord_stream (n w : Nat) (s : State) :
    (s.withFetchWord n w).stream = s.stream := rfl

end Sys2Proof.Machine
end

