-- ==== Sys2Proof/Laws/Ops.lean ====
section
/-! SUPPORT. What each shared operation of the block can do, once. -/

namespace Sys2Proof.Machine

@[simp] theorem Status.ofCode_code (st : Status) : Status.ofCode st.code = some st := by
  cases st <;> rfl

theorem Status.code_ne_three (st : Status) : st.code ≠ 0b11 := by cases st <;> decide

@[simp] theorem Response.result_isSome (r : Response) : r.result.isSome = (r.status == .ok) := by
  cases r with
  | ok _ => rfl
  | error c => cases c <;> rfl

/-! `State.answer`: the response stands on the lines, the ports are untouched. -/

@[simp] theorem State.answer_cmd (r : Response) (s : State) : (s.answer r).cmd = s.cmd := by
  rcases r with (_ | _ | _) | _ <;> rfl

@[simp] theorem State.answer_req (r : Response) (s : State) : (s.answer r).req = s.req := by
  rcases r with (_ | _ | _) | _ <;> rfl

@[simp] theorem State.answer_draws (r : Response) (s : State) :
    (s.answer r).draws = s.draws + 1 := by
  rcases r with (_ | _ | _) | _ <;> rfl

@[simp] theorem State.answer_stream (r : Response) (s : State) :
    (s.answer r).stream = s.stream := by
  rcases r with (_ | _ | _) | _ <;> rfl

@[simp] theorem State.answer_status (r : Response) (s : State) :
    (s.answer r).status = r.status.code := by
  rcases r with (_ | _ | _) | _ <;> rfl

/-- The host reads back the response that was put on the lines. -/
@[simp] theorem State.answer_response (r : Response) (s : State) :
    (s.answer r).response = some r := by
  rcases r with (_ | _ | _) | (_ | _) <;> rfl

/-- What the standing response carries. -/
def Response.carried : Response → Carried
  | .ok (.decoded _ _ _ _ _) => .decoded
  | .ok (.header _) => .header
  | .ok (.flags _) => .flags
  | .error _ => .nothing

@[simp] theorem State.answer_phase (r : Response) (s : State) :
    (s.answer r).phase = .answered r.carried := by
  rcases r with (_ | _ | _) | _ <;> rfl

@[simp] theorem State.answer_wf (r : Response) (s : State) : (s.answer r).wf = true := by
  rcases r with (_ | _ | _) | (_ | _) <;> rfl

@[simp] theorem State.answer_ok (r : Result) (s : State) : s.answer (.ok r) = s.succeed r := rfl

@[simp] theorem State.answer_error (c : Cause) (s : State) : s.answer (.error c) = s.raise c := rfl

@[simp] theorem State.succeed_response (r : Result) (s : State) :
    (s.succeed r).response = some (.ok r) := State.answer_response (.ok r) s

@[simp] theorem State.raise_response (c : Cause) (s : State) :
    (s.raise c).response = some (.error c) := State.answer_response (.error c) s

/-- Nothing of the latched operands survives an error. -/
theorem State.raise_of_phase (c : Cause) (s : State) (p : Phase) :
    { s with phase := p }.raise c = s.raise c := rfl

/-- Nothing of the latched operands survives a success but its result. -/
theorem State.succeed_of_phase (r : Result) (s : State) (p : Phase) :
    { s with phase := p }.succeed r = s.succeed r := by
  cases r <;> rfl

/-! `State.respond`. -/

theorem State.respond_executing {s : State} {w : Word} {req : List Byte}
    (h : s.phase = .executing w req) (f : List Byte → Response) :
    s.respond f = .next (s.answer (f req)) := by
  simp [State.respond, h]

/-- Everything `respond` can do. -/
theorem State.respond_cases (s : State) (f : List Byte → Response) :
    (∃ w req, s.phase = .executing w req ∧ s.respond f = .next (s.answer (f req))) ∨
      ((∀ w req, s.phase ≠ .executing w req) ∧ s.respond f = .next s) := by
  unfold State.respond
  split
  · next w req h => exact .inl ⟨w, req, h, rfl⟩
  · next h => exact .inr ⟨by simp [h], rfl⟩
  · next h => exact .inr ⟨by simp [h], rfl⟩

/-! `State.issue`. -/

theorem State.issue_executing {s : State} {w : Word} {req : List Byte}
    (h : s.phase = .executing w req) : s.issue = .refused .issueWhileOutstanding := by
  simp [State.issue, h]

theorem State.issue_not_executing {s : State} (h : ∀ w req, s.phase ≠ .executing w req) :
    s.issue = .next s.latch := by
  unfold State.issue
  split
  · next w req hp => exact absurd hp (h w req)
  · rfl
  · rfl

/-- Everything `issue` can do. -/
theorem State.issue_cases {s t : State} (h : s.issue = .next t) :
    (∀ w req, s.phase ≠ .executing w req) ∧ t = s.latch := by
  unfold State.issue at h
  split at h
  · cases h
  · next hp => exact ⟨by simp [hp], by cases h; rfl⟩
  · next hp => exact ⟨by simp [hp], by cases h; rfl⟩

/-! The response view where nothing stands. -/

theorem State.response_idle {s : State} (h : s.phase = .idle) : s.response = none := by
  simp [State.response, h]

theorem State.response_executing {s : State} {w : Word} {req : List Byte}
    (h : s.phase = .executing w req) : s.response = none := by
  simp [State.response, h]

/-! Sequencing. -/

@[simp] theorem andThen_next {α β : Type} (a : α) (f : α → Host.Outcome β Fault Refusal) :
    andThen (.next a) f = f a := rfl

@[simp] theorem andThen_fault {α β : Type} (r : Fault) (f : α → Host.Outcome β Fault Refusal) :
    andThen (.fault r) f = .fault r := rfl

@[simp] theorem andThen_refused {α β : Type} (r : Refusal)
    (f : α → Host.Outcome β Fault Refusal) : andThen (.refused r) f = .refused r := rfl

/-- A sequence that answers next ran both parts. -/
theorem andThen_eq_next {α β : Type} {o : Host.Outcome α Fault Refusal}
    {f : α → Host.Outcome β Fault Refusal} {b : β} (h : andThen o f = .next b) :
    ∃ a, o = .next a ∧ f a = .next b := by
  cases o with
  | next a => exact ⟨a, rfl, h⟩
  | fault r => cases h
  | refused r => cases h

end Sys2Proof.Machine
end

