-- ==== Sys2Proof/Laws/PerInstr.lean ====
section
/-! SUPPORT. What holds of every command as syntax, one lemma per constructor. -/

/-- Every command is well formed, and its fields are what the decoder turns into it. -/
def Sys2Proof.Laws.FieldsLegal.Statement (i : Sys2Proof.Instr) : Prop :=
  i.wf = true ∧ Sys2Proof.commandOf i.fields = .ok i

theorem Sys2Proof.Laws.FieldsLegal.decode :
    Sys2Proof.Laws.FieldsLegal.Statement .decode := ⟨rfl, rfl⟩

theorem Sys2Proof.Laws.FieldsLegal.transform :
    Sys2Proof.Laws.FieldsLegal.Statement .transform := ⟨rfl, rfl⟩

theorem Sys2Proof.Laws.FieldsLegal.setFlags (f : Sys2Proof.Byte) (a s : Bool) :
    Sys2Proof.Laws.FieldsLegal.Statement (.setFlags f a s) := ⟨rfl, rfl⟩
end

