-- ==== Sys2Proof/Laws/Step.lean ====
section
/-! SUPPORT. Everything a command and a step can do, once. -/

namespace Sys2Proof.Machine

/-- The response function of a command, on a block whose RESP register holds `blank`. -/
def responseOf (blank : Header) (i : Instr) (req : List Byte) : Response :=
  match i with
  | .decode => decodeResponse req
  | .transform => transformResponse blank req
  | .setFlags f a s => setFlagsResponse f a s

/-- Each command is its response function, put on the lines. -/
theorem exec_eq_respond (i : Instr) (s : State) : exec i s = s.respond (responseOf s.resp i) := by
  cases i <;> rfl

/-- An outstanding command is answered by its response function. -/
theorem exec_executing {s : State} {w : Word} {req : List Byte} (h : s.phase = .executing w req)
    (i : Instr) : exec i s = .next (s.answer (responseOf s.resp i req)) := by
  rw [exec_eq_respond, State.respond_executing h]

/-- The response of a word, legal or not. -/
def wordResponse (blank : Header) (w : Word) (req : List Byte) : Response :=
  match decodeWord w with
  | .ok i => responseOf blank i req
  | .error _ => .error .illegalCommand

/-- A step answers the outstanding command. -/
theorem step_executing {s : State} {w : Word} {req : List Byte} (h : s.phase = .executing w req) :
    step s = .next (s.answer (wordResponse s.resp w req)) := by
  simp only [step, h, wordResponse]
  cases hd : decodeWord w with
  | ok i => exact exec_executing h i
  | error e => rfl

/-- With nothing outstanding a step changes nothing. -/
theorem step_not_executing {s : State} (h : ∀ w req, s.phase ≠ .executing w req) :
    step s = .next s := by
  unfold step
  split
  · next w req hp => exact absurd hp (h w req)
  · rfl
  · rfl

/-- Everything a step can do. -/
theorem step_cases (s : State) :
    (∃ w req, s.phase = .executing w req ∧ step s = .next (s.answer (wordResponse s.resp w req))) ∨
      ((∀ w req, s.phase ≠ .executing w req) ∧ step s = .next s) := by
  cases h : s.phase with
  | idle => exact .inr ⟨by simp, step_not_executing (by simp [h])⟩
  | executing w req => exact .inl ⟨w, req, rfl, step_executing h⟩
  | answered k => exact .inr ⟨by simp, step_not_executing (by simp [h])⟩

end Sys2Proof.Machine
end

