-- ==== Sys2Proof/Laws/Platform.lean ====
section
/-! SUPPORT. What an operation of one instance does to a platform, once. -/

namespace Sys2Proof.Machine

/-- Everything `onUnit` can do. -/
theorem Platform.onUnit_cases {k : Nat} {op : State → Answer} {p q : Platform}
    (h : p.onUnit k op = .next q) :
    ∃ s t, p.units[k]? = some s ∧ op s = .next t ∧ q.units = p.units.set k t := by
  unfold Platform.onUnit at h
  split at h
  · cases h
  · next s hs =>
    obtain ⟨t, ht, h⟩ := andThen_eq_next h
    cases h
    exact ⟨s, t, hs, ht, rfl⟩

/-- An operation that has a step on the unit has one on the platform. -/
theorem Platform.onUnit_eq {k : Nat} {op : State → Answer} {p : Platform} {s t : State}
    (hs : p.units[k]? = some s) (ht : op s = .next t) :
    p.onUnit k op = .next { units := p.units.set k t } := by
  simp [Platform.onUnit, hs, ht]

end Sys2Proof.Machine
end

