-- ==== Sys2Proof/Laws/Store.lean ====
section
/-! SUPPORT. The canonical keyed store: read after write, and that a write keeps the form. -/

namespace Sys2Proof.Machine

variable {α : Type}

@[simp] theorem Store.get_put_same (k : Nat) (v : α) (m : Store α) :
    Store.get k (Store.put k v m) = some v := by
  induction m with
  | nil => simp [Store.put, Store.get]
  | cons p ps ih =>
    simp only [Store.put]
    split
    · simp [Store.get]
    · split
      · simp [Store.get]
      · next h => simp [Store.get, Ne.symm h, ih]

theorem Store.get_put_other {k j : Nat} (h : j ≠ k) (v : α) (m : Store α) :
    Store.get j (Store.put k v m) = Store.get j m := by
  induction m with
  | nil => simp [Store.put, Store.get, Ne.symm h]
  | cons p ps ih =>
    simp only [Store.put]
    split
    · simp [Store.get, Ne.symm h]
    · split
      · next h' => subst h'; simp [Store.get, Ne.symm h]
      · simp [Store.get, ih]

theorem Store.above_put {b k : Nat} (h : b < k) (v : α) {m : Store α} (hm : Store.above b m = true) :
    Store.above b (Store.put k v m) = true := by
  induction m with
  | nil => simp [Store.put, Store.above, h]
  | cons p ps ih =>
    simp only [Store.above, List.all_cons, Bool.and_eq_true, decide_eq_true_eq] at hm ih ⊢
    simp only [Store.put]
    split
    · simp [h, hm]
    · split
      · simp [h, hm.2]
      · simp [hm.1, ih hm.2]

theorem Store.above_mono {a b : Nat} (h : a < b) {m : Store α} (hm : Store.above b m = true) :
    Store.above a m = true := by
  simp only [Store.above, List.all_eq_true, decide_eq_true_eq] at hm ⊢
  exact fun p hp => Nat.lt_trans h (hm p hp)

/-- A write keeps the canonical form. -/
theorem Store.wf_put (k : Nat) (v : α) {m : Store α} (hm : Store.wf m = true) :
    Store.wf (Store.put k v m) = true := by
  induction m with
  | nil => simp [Store.put, Store.wf, Store.above]
  | cons p ps ih =>
    simp only [Store.wf, Bool.and_eq_true] at hm
    simp only [Store.put]
    split
    · next h =>
      have ha : Store.above k (p :: ps) = true := by
        have := Store.above_mono h hm.1
        simpa [Store.above, h] using this
      simp only [Store.wf, ha, hm, Bool.and_self]
    · split
      · next h => subst h; simp [Store.wf, hm]
      · next h1 h2 =>
        have hlt : p.1 < k := by omega
        simp [Store.wf, ih hm.2, Store.above_put hlt v hm.1]

end Sys2Proof.Machine
end

