-- ==== Sys2Proof/Laws/Script.lean ====
section
/-! SUPPORT. What the host's statements do, once. -/

namespace Sys2Proof.Machine

/-! `HostState.collect`: the response becomes the view; buffers, variables and index stay. -/

@[simp] theorem HostState.collect_script (r : Response) (h : HostState) :
    (h.collect r).script = h.script := by cases r <;> rfl

@[simp] theorem HostState.collect_index (r : Response) (h : HostState) :
    (h.collect r).index = h.index := by cases r <;> rfl

@[simp] theorem HostState.collect_buffers (r : Response) (h : HostState) :
    (h.collect r).buffers = h.buffers := by cases r <;> rfl

@[simp] theorem HostState.collect_vars (r : Response) (h : HostState) :
    (h.collect r).vars = h.vars := by cases r <;> rfl

@[simp] theorem HostState.collect_view (r : Response) (h : HostState) :
    (h.collect r).view = some r := by cases r <;> rfl

@[simp] theorem HostState.collect_halted (r : Response) (h : HostState) :
    (h.collect r).halted = h.halted := by cases r <;> rfl

@[simp] theorem HostState.collect_reads (r : Response) (h : HostState) :
    (h.collect r).reads = h.reads := by cases r <;> rfl

@[simp] theorem HostState.hear_some (r : Response) (h : HostState) :
    h.hear (some r) = h.collect r := rfl

@[simp] theorem HostState.hear_none (h : HostState) : h.hear none = h := rfl

@[simp] theorem HostState.collect_wf (r : Response) (h : HostState) :
    (h.collect r).wf = h.wf := by cases r <;> rfl

/-- The fault log only grows. -/
theorem HostState.faultLog_prefix_collect (r : Response) (h : HostState) :
    h.faultLog <+: (h.collect r).faultLog := by
  cases r with
  | ok _ => exact List.prefix_rfl
  | error c => exact List.prefix_append _ _

/-! `System.putBuffer`. -/

@[simp] theorem System.putBuffer_block (b : BufName) (bytes : List Byte) (sys : System) :
    (sys.putBuffer b bytes).block = sys.block := rfl

@[simp] theorem System.putBuffer_view (b : BufName) (bytes : List Byte) (sys : System) :
    (sys.putBuffer b bytes).host.view = sys.host.view := rfl

@[simp] theorem System.putBuffer_faultLog (b : BufName) (bytes : List Byte) (sys : System) :
    (sys.putBuffer b bytes).host.faultLog = sys.host.faultLog := rfl

@[simp] theorem System.putBuffer_buffers (b : BufName) (bytes : List Byte) (sys : System) :
    (sys.putBuffer b bytes).host.buffers = sys.host.buffers.put b bytes := rfl

theorem System.putBuffer_wf (b : BufName) (bytes : List Byte) {sys : System}
    (h : sys.host.wf = true) : (sys.putBuffer b bytes).host.wf = true := by
  simp only [HostState.wf, System.putBuffer, Bool.and_eq_true] at h ⊢
  exact ⟨Store.wf_put b bytes h.1, h.2⟩

/-! `System.countRead`: the model's own counter, and nothing else. -/

@[simp] theorem System.countRead_block (sys : System) : sys.countRead.block = sys.block := rfl

@[simp] theorem System.countRead_script (sys : System) :
    sys.countRead.host.script = sys.host.script := rfl

@[simp] theorem System.countRead_index (sys : System) :
    sys.countRead.host.index = sys.host.index := rfl

@[simp] theorem System.countRead_buffers (sys : System) :
    sys.countRead.host.buffers = sys.host.buffers := rfl

@[simp] theorem System.countRead_vars (sys : System) :
    sys.countRead.host.vars = sys.host.vars := rfl

@[simp] theorem System.countRead_view (sys : System) :
    sys.countRead.host.view = sys.host.view := rfl

@[simp] theorem System.countRead_faultLog (sys : System) :
    sys.countRead.host.faultLog = sys.host.faultLog := rfl

@[simp] theorem System.countRead_halted (sys : System) :
    sys.countRead.host.halted = sys.host.halted := rfl

@[simp] theorem System.countRead_reads (sys : System) :
    sys.countRead.host.reads = sys.host.reads + 1 := rfl

@[simp] theorem System.countRead_wf (sys : System) : sys.countRead.host.wf = sys.host.wf := rfl

/-! Reads of the host's view. -/

@[simp] theorem Response.ok_status (r : Result) : (Response.ok r).status = .ok := rfl

@[simp] theorem Response.error_status_ne_ok (c : Cause) : (Response.error c).status ≠ .ok := by
  cases c <;> decide

@[simp] theorem Response.status_code_eq_ok (r : Response) :
    r.status.code = Status.ok.code ↔ r.status = .ok := by
  rcases r with _ | (_ | _) <;> simp [Response.status, Cause.status, Status.code]

/-- Reading STATUS after a response gives its code and changes nothing. -/
theorem System.readStatus_some {sys : System} {r : Response} (h : sys.host.view = some r) :
    sys.readStatus = (r.status.code, sys) := by
  simp [System.readStatus, h]

/-- Everything reading STATUS can do to the host. -/
theorem System.readStatus_snd (sys : System) :
    sys.readStatus.2 = sys ∨ sys.readStatus.2 = sys.countRead := by
  unfold System.readStatus
  split
  · exact .inl rfl
  · exact .inr rfl

/-- A result name the last response carries is read as it stands. -/
theorem System.readResult_carried {α : Type} {name : Result → Option α} {free : Nat → α}
    {sys : System} {r : Result} {v : α} (h : sys.host.view = some (.ok r)) (hv : name r = some v) :
    sys.readResult name free = .next (v, sys) := by
  simp [System.readResult, h, hv]

/-- After an error a result name is absent. -/
theorem System.readResult_error {α : Type} {name : Result → Option α} {free : Nat → α}
    {sys : System} {c : Cause} (h : sys.host.view = some (.error c)) :
    sys.readResult name free = .refused .notCarried := by
  simp [System.readResult, h]

/-- Reading a result name either changes nothing or counts one read. -/
theorem System.readResult_cases {α : Type} {name : Result → Option α} {free : Nat → α}
    {sys t : System} {v : α} (h : sys.readResult name free = .next (v, t)) :
    t = sys ∨ t = sys.countRead := by
  unfold System.readResult at h
  split at h
  · cases h
  · split at h <;> cases h
    · exact .inl rfl
    · exact .inr rfl
  · cases h
    exact .inr rfl

/-- Reading a byte operand either changes nothing or counts one read. -/
theorem System.value_cases {sys t : System} {v : ByteVal} {b : Byte}
    (h : sys.value v = .next (b, t)) : t = sys ∨ t = sys.countRead := by
  cases v with
  | lit _ => cases h; exact .inl rfl
  | var x =>
    simp only [System.value] at h
    split at h <;> cases h
    exact .inl rfl
  | status =>
    cases h
    exact sys.readStatus_snd
  | active =>
    obtain ⟨p, hp, h⟩ := andThen_eq_next h
    cases h
    exact System.readResult_cases hp
  | flagsOut => exact System.readResult_cases h

/-! `System.command`. -/

/-- Everything a command statement can do: the block takes the command and the host collects the
response. -/
theorem System.command_cases {ports : State → State} {sys t : System}
    (h : sys.command ports = .next t) :
    ∃ r, t.host = sys.host.collect r ∧
      t.block = (ports sys.block).latch.answer r ∧
      r = wordResponse (ports sys.block).latch.resp (ports sys.block).cmd (ports sys.block).req := by
  obtain ⟨b, hb, h⟩ := andThen_eq_next h
  obtain ⟨-, rfl⟩ := State.issue_cases hb
  obtain ⟨b', hb', h⟩ := andThen_eq_next h
  rw [step_executing rfl] at hb'
  cases hb'
  cases h
  exact ⟨_, by simp, rfl, rfl⟩

/-- A command statement completes on a block that is not executing. -/
theorem System.command_eq {ports : State → State} {sys : System}
    (h : ∀ w req, (ports sys.block).phase ≠ .executing w req) :
    ∃ r, r = wordResponse (ports sys.block).latch.resp (ports sys.block).cmd (ports sys.block).req ∧
      sys.command ports =
        .next { host := sys.host.collect r, block := (ports sys.block).latch.answer r } := by
  refine ⟨_, rfl, ?_⟩
  rw [System.command, State.issue_not_executing h, andThen_next, step_executing rfl, andThen_next,
    State.answer_response, HostState.hear_some]

/-- A buffer the host holds is read as it stands. -/
theorem System.buffer_eq {sys : System} {b : BufName} {bytes : List Byte}
    (h : Store.get b sys.host.buffers = some bytes) : sys.buffer b = .next bytes := by
  simp [System.buffer, h]

/-- Reading a buffer answers what the store holds. -/
theorem System.buffer_cases {sys : System} {b : BufName} {bytes : List Byte}
    (h : sys.buffer b = .next bytes) : Store.get b sys.host.buffers = some bytes := by
  unfold System.buffer at h
  split at h
  · next hb => cases h; exact hb
  · cases h

/-- Everything `storeResp` can do. -/
theorem System.storeResp_cases (dst : BufName) (sys : System) :
    (∃ resp, sys.host.view = some (.ok (.header resp)) ∧
        sys.storeResp dst = sys.putBuffer dst resp.toList) ∨
      sys.storeResp dst = sys := by
  unfold System.storeResp
  split
  · next resp h => exact .inl ⟨resp, h, rfl⟩
  all_goals exact .inr rfl

end Sys2Proof.Machine
end

