-- ==== Sys2Proof/Laws/Session.lean ====
section
/-! SUPPORT. What one command of a session does. -/

namespace Sys2Proof.Machine

/-- A block that is not executing takes a command and answers it in one issue and one step. -/
theorem State.command_eq {s : State} (h : ∀ w req, s.phase ≠ .executing w req) (p : Presented) :
    s.command p =
      .next (((s.writeCmd p.cmd).writeReq p.req).latch.answer
        (wordResponse (Config.freeResp s.stream s.draws) p.cmd p.req)) := by
  have hi : ((s.writeCmd p.cmd).writeReq p.req).issue =
      .next ((s.writeCmd p.cmd).writeReq p.req).latch :=
    State.issue_not_executing (by simpa using h)
  rw [State.command, hi, andThen_next]
  exact step_executing rfl

/-- After a command the block is not executing. -/
theorem State.answer_not_executing (r : Response) (s : State) :
    ∀ w req, (s.answer r).phase ≠ .executing w req := by simp

end Sys2Proof.Machine
end

