-- ==== Sys2Proof/Tests/Slice0.lean ====
section
/-! SUPPORT. The model's own tests: the well-formedness checks refuse, words decode, each command gives the
spec's vector on one step, and every statement's hypotheses are met by a concrete state. Expected values
are those of spec/95_test_vectors.md and spec/30_encoding.md R63, named in each comment. -/

namespace Sys2Proof.Tests

open Sys2Proof.Machine

/-! Helpers. -/

/-- A block with a command outstanding on a request. -/
def running (w : Word) (req : List Byte) : State :=
  { State.reset with phase := .executing w req }

/-- The response of one step. -/
def responseAfter (s : State) : Option Response :=
  match step s with
  | .next t => t.response
  | .fault _ => none
  | .refused _ => none

/-- Buffer B1 of 95_test_vectors.md. -/
def bufB1 : Header :=
  #v[0x34, 0x12, 0x78, 0x56, 1, 0, 0, 0, 2, 0, 0, 0, 0x50, 0x12, 0xAA, 0xBB, 0xCC, 0xDD, 0xEE, 0xFF]

/-- Buffer B2. -/
def bufB2 : Header :=
  #v[0x00, 0x80, 0x50, 0x00, 0xFF, 0xFF, 0xFF, 0xFF, 0x11, 0x22, 0x33, 0x44, 0x50, 0x02, 1, 2, 3, 4, 5, 6]

/-- Buffer B4. -/
def bufB4 : Header :=
  #v[0xFF, 0x7F, 0x00, 0x00, 0xFE, 0xFF, 0xFF, 0xFF, 0, 0, 0, 0, 0x00, 0xC2, 0, 0, 0, 0, 0, 0]

/-- B1 with the acknowledgement number changed. -/
def bufB1Ack : Header :=
  #v[0x34, 0x12, 0x78, 0x56, 1, 0, 0, 0, 9, 9, 9, 9, 0x50, 0x12, 0xAA, 0xBB, 0xCC, 0xDD, 0xEE, 0xFF]

/-- B1 with the opaque bytes and flags bits 6 and 7 changed. -/
def bufB1Opaque : Header :=
  #v[0x34, 0x12, 0x78, 0x56, 1, 0, 0, 0, 2, 0, 0, 0, 0, 0xD2, 0, 0, 0, 0, 0, 0]

/-- B1's first nineteen bytes. -/
def bytes19 : List Byte := bufB1.toList.take 19

/-- B1 and one byte more. -/
def bytes21 : List Byte := bufB1.toList ++ [0]

/-! Well-formedness: an ill-formed term for each check. -/

theorem test_wf_refuses_reserved_operation :
    (CommandFields.mk 3 false false 0 0).opAssigned = false ∧
      (CommandFields.mk 3 false false 0 0).wf = false := by decide

theorem test_wf_refuses_reserved_bits :
    (CommandFields.mk 2 true false 8 0x12).reservedClear = false ∧
      (CommandFields.mk 2 true false 8 0x12).wf = false := by decide

theorem test_wf_refuses_operand_bits :
    (CommandFields.mk 0 true false 0 0).operandsClear = false ∧
      (CommandFields.mk 1 false true 0 0).operandsClear = false ∧
      (CommandFields.mk 1 false false 0 1).wf = false := by decide

/-! Decoding (R63 and ENC-1 to ENC-11). -/

theorem test_decode_word_decode : decodeWord 0b0000000000000000 = .ok .decode := by decide

theorem test_decode_word_transform : decodeWord 0b0000000000000001 = .ok .transform := by decide

theorem test_decode_word_setFlags :
    decodeWord 0b0001001000000110 = .ok (.setFlags 0x12 true false) := by decide

theorem test_decode_word_illegal :
    decodeWord 0x0004 = .error .operandBitsSet ∧ decodeWord 0x8000 = .error .operandBitsSet ∧
      decodeWord 0x0101 = .error .operandBitsSet ∧ decodeWord 0x00F2 = .error .reservedBitsSet ∧
      decodeWord 0x0083 = .error .reservedOperation := by decide

theorem test_decodeTableWord_ff0e : decodeTableWord 16 0xFF0E = some (.setFlags 0xFF true true) := by
  decide

theorem test_withFetchWord_runs :
    responseAfter (State.reset.withFetchWord 16 0x1206) = some (.ok (.flags 0x22)) := by decide

/-! DECODE. -/

/-- DEC-2. -/
theorem test_decode_b2 : responseAfter (running 0x0000 bufB2.toList) =
    some (.ok (.decoded 0x8000 0x0050 0xFFFFFFFF 0x44332211 0b000010)) := by decide

/-- DEC-12. -/
theorem test_decode_21_bytes :
    responseAfter (running 0x0000 bytes21) = some (.error .malformedHeader) := by decide

/-- DEC-3, DEC-9, DEC-5. -/
theorem test_activeList :
    activeList 0b111111 = [.URG, .ACK, .PSH, .RST, .SYN, .FIN] ∧
      activeList 0b000011 = [.SYN, .FIN] ∧ activeList 0 = [] := by decide

/-- R32. -/
theorem test_flag_masks :
    [FlagName.FIN, .SYN, .RST, .PSH, .ACK, .URG].map FlagName.mask =
      [0x01, 0x02, 0x04, 0x08, 0x10, 0x20] := by decide

/-! TRANSFORM. -/

/-- TR-1. -/
theorem test_transform_b2 : responseAfter (running 0x0001 bufB2.toList) =
    some (.ok (.header #v[0x50, 0x00, 0x20, 0x90, 0, 0, 0, 0, 0xFF, 0xFF, 0xFF, 0xFF, 0x50, 0x12,
      1, 2, 3, 4, 5, 6])) := by decide

/-- TR-3. -/
theorem test_transform_b4 : responseAfter (running 0x0001 bufB4.toList) =
    some (.ok (.header #v[0x00, 0x00, 0xFF, 0x7F, 0xFF, 0xFF, 0xFF, 0xFF, 0xFE, 0xFF, 0xFF, 0xFF,
      0x00, 0xD2, 0, 0, 0, 0, 0, 0])) := by decide

/-! SETFLAGS. -/

/-- SF-4. -/
theorem test_setFlags_3f : responseAfter (running 0x3F0A []) = some (.ok (.flags 0x1F)) := by decide

/-- SF-11. -/
theorem test_setFlags_ignores_req :
    responseAfter (running 0x1206 bytes19) = some (.ok (.flags 0x22)) := by decide

/-! Errors. -/

/-- ERR-1. -/
theorem test_illegal_before_length :
    responseAfter (running 0x0003 bytes19) = some (.error .illegalCommand) := by decide

/-! Host statements. -/

/-- A host that holds one buffer in front of an idle block. -/
def hostWith (script : List Line) (bytes : List Byte) : System :=
  (System.start script).putBuffer 1 bytes

/-- The buffer 1 after one statement. -/
def bufferAfter (sys : System) : Option (List Byte) :=
  match sys.step with
  | .next t => Store.get 1 t.host.buffers
  | .fault _ => none
  | .refused _ => none

/-- Step 8 of program P4, on the buffer h of step 7. -/
theorem test_setFlagsWb :
    bufferAfter (hostWith [⟨[], .setFlagsWb 1 true true⟩]
        [0, 0, 0, 0, 1, 0, 0, 0, 0, 0, 0, 0, 0, 0x01, 0, 0, 0, 0, 0, 0]) =
      some [0, 0, 0, 0, 1, 0, 0, 0, 0, 0, 0, 0, 0, 0x31, 0, 0, 0, 0, 0, 0] := by decide

/-- Step 4 of program P4: a taken branch. -/
theorem test_branch_taken :
    labelIndex 7 [⟨[], .halt⟩, ⟨[7], .act (.raw 0x0003 1)⟩] = some 1 := by decide

/-! Witnesses: each statement's hypotheses, met together by a concrete state. -/

/-- EncodeOfDecodeIsIdentity, DecodeOfEncodeIsIdentity, OperationFieldSelectsTheCommand (one word per
operation). -/
theorem witness_legal_words :
    decodeWord 0x0000 = .ok .decode ∧ decodeWord 0x0001 = .ok .transform ∧
      decodeWord 0x1206 = .ok (.setFlags 0x12 true false) ∧
      (Instr.setFlags 0x12 true false).wf = true := by decide

/-- The statements over a command outstanding on any word and request. -/
theorem witness_executing : (running 0x0001 [1, 2, 3]).phase = .executing 0x0001 [1, 2, 3] := rfl

/-- The statements over a command outstanding on twenty bytes. -/
theorem witness_executing_header :
    (running 0x0001 bufB1.toList).phase = .executing 0x0001 bufB1.toList := rfl

/-- ReservedBitsMakeTheWordIllegal, each alternative: RSV, OP = 0 and OP = 1 with an operand bit. -/
theorem witness_reserved_bits :
    (running 0x0012 []).phase = .executing 0x0012 [] ∧ (0x0012 : Word).extractLsb' 4 4 ≠ 0 ∧
      (0x8000 : Word).extractLsb' 0 2 = 0b00 ∧ (0x8000 : Word).extractLsb' 2 14 ≠ 0 ∧
      (0x0101 : Word).extractLsb' 0 2 = 0b01 ∧ (0x0101 : Word).extractLsb' 2 14 ≠ 0 := by decide

/-- OperationFieldSelectsTheCommand, second clause. -/
theorem witness_operation_three :
    (running 0x0083 []).phase = .executing 0x0083 [] ∧ (0x0083 : Word).extractLsb' 0 2 = 0b11 := by
  decide

/-- UnassignedWordAnswersIllegalCommand. -/
theorem witness_unassigned :
    (running 0x0100 bytes19).phase = .executing 0x0100 bytes19 ∧ (0x0100 : Word) &&& 0xFFFF ≠ 0x0000 ∧
      (0x0100 : Word) &&& 0xFFFF ≠ 0x0001 ∧ (0x0100 : Word) &&& 0x00F3 ≠ 0x0002 := by decide

/-- StepRunsTheDecodedCommand, each clause. -/
theorem witness_step_clauses :
    ((running 0x0000 []).phase = .executing 0x0000 [] ∧ decodeWord 0x0000 = .ok .decode) ∧
      ((running 0x0003 []).phase = .executing 0x0003 [] ∧
        decodeWord 0x0003 = .error .reservedOperation) ∧
      State.reset.notExecuting :=
  ⟨⟨rfl, by decide⟩, ⟨rfl, by decide⟩, (fun _ _ h => nomatch h)⟩

/-- OneStatusByPriority, each clause at the lengths around twenty. -/
theorem witness_priority_clauses :
    ((running 0x0003 bytes19).phase = .executing 0x0003 bytes19 ∧ bytes19.length = 19) ∧
      (decodeWord 0x0000 = .ok .decode ∧ bytes19.length ≠ 20 ∧ bytes21.length ≠ 20) ∧
      (decodeWord 0x0001 = .ok .transform ∧ bufB1.toList.length = 20) ∧
      decodeWord 0x1206 = .ok (.setFlags 0x12 true false) := by decide

/-- OneStatusByPriority, the illegal word. -/
theorem witness_priority_illegal : ∀ i, decodeWord 0x0003 ≠ .ok i := by
  intro i h
  have e : decodeWord 0x0003 = .error .reservedOperation := by decide
  rw [e] at h
  cases h

/-- DecodeRejectsEveryOtherLength and TransformFailsOnTheLengthOnly: lengths 0, 19 and 21. -/
theorem witness_other_lengths :
    (running 0x0000 []).phase = .executing 0x0000 [] ∧ ([] : List Byte).length ≠ 20 ∧
      (running 0x0001 bytes19).phase = .executing 0x0001 bytes19 ∧ bytes19.length ≠ 20 ∧
      bytes21.length ≠ 20 := by decide

/-- DecodeDependsOnlyOnTheFieldsItReads, on two different requests. -/
theorem witness_decode_dependence :
    (∀ k, (h : k < 20) → k < 12 → bufB1[k] = bufB1Opaque[k]) ∧
      (∀ k, k < 6 → bufB1[13].getLsbD k = bufB1Opaque[13].getLsbD k) ∧ bufB1 ≠ bufB1Opaque := by
  decide

/-- TransformIgnoresTheAcknowledgement, on two different requests. -/
theorem witness_transform_dependence :
    (∀ k, (h : k < 20) → (k < 8 ∨ 12 ≤ k) → bufB1[k] = bufB1Ack[k]) ∧ bufB1 ≠ bufB1Ack := by decide

/-- TransformFlagsByte, both clauses. -/
theorem witness_flags_clauses :
    bufB1[13].getLsbD 1 = true ∧ (Vector.replicate 20 (0x10 : Byte) : Header)[13].getLsbD 1 = false := by
  decide

/-- ScrambleTestsBitFifteen, both clauses at the threshold. -/
theorem witness_scramble_clauses :
    (0x8000 : BitVec 16).getLsbD 15 = true ∧ (0x7FFF : BitVec 16).getLsbD 15 = false := by decide

/-- TransformSequenceNumbers, the wrap. -/
theorem witness_sequence_wrap : rd32 bufB2 4 = 0xFFFFFFFF := by decide

/-- TransformOfItsOwnResponse: the second command's request is the first one's RESP. -/
theorem witness_own_response :
    (running 0x0001 (transformInto bufB1 bufB4).toList).phase =
      .executing 0x0001 (transformInto bufB1 bufB4).toList := rfl

/-- WideFieldIsItsHalves, the last offset. -/
theorem witness_wide_field : 16 + 3 < 20 := by decide

/-- IssueNeedsTheEarlierResponse, both clauses, and the statements over a block that waits. -/
theorem witness_issue_clauses :
    (running 0x0000 []).phase = .executing 0x0000 [] ∧ State.reset.notExecuting :=
  ⟨rfl, (fun _ _ h => nomatch h)⟩

/-- ScriptReadsFollowTheLastResponse, first clause. -/
theorem witness_nothing_answered : ∀ k, State.reset.phase ≠ .answered k := by
  intro k h
  cases h

/-- SessionAnswersInIssueOrder: two commands on a block after reset, with different waits and latencies. -/
theorem witness_session :
    State.reset.notExecuting ∧
      ([⟨⟨0x0000, bytes19⟩, 0, 3⟩, ⟨⟨0x1206, []⟩, 5, 1⟩] : List Timed).map Timed.latency = [3, 1] :=
  ⟨(fun _ _ h => nomatch h), rfl⟩

/-- UnrepresentableLengthsAreRejected: a request longer than the field can say. -/
theorem witness_unrepresentable :
    ¬ Config.presentable (List.replicate (2 ^ Config.lenW) (0 : Byte)).length := by
  simp [Config.presentable]

/-- StepKeepsTheResponseLegal. -/
theorem witness_step_keeps :
    (running 0x0000 []).wf = true ∧
      step (running 0x0000 []) = .next ((running 0x0000 []).raise .malformedHeader) := ⟨rfl, rfl⟩

/-- PortOperationsKeepTheResponseLegal. -/
theorem witness_issue_answers :
    State.reset.wf = true ∧ State.reset.issue = .next State.reset.latch := ⟨rfl, rfl⟩

/-- InstancesAreIndependent: two units, each with a step. -/
theorem witness_two_units :
    let p : Platform := { units := [running 0x0000 [], State.reset] }
    (0 : Nat) ≠ 1 ∧
      p.onUnit 0 step =
        .next { units := [(running 0x0000 []).raise .malformedHeader, State.reset] } ∧
      p.onUnit 1 State.issue = .next { units := [running 0x0000 [], State.reset.latch] } :=
  ⟨by decide, rfl, rfl⟩

/-- InstancesStartIdle, the clause about the units at reset. -/
theorem witness_reset_unit :
    Platform.reset.units[0]? = some { State.reset with stream := 0 } := by
  simp [Platform.reset, Config.nInstances]

/-- InstancesStartIdle, last clause. -/
theorem witness_unit_number : 0 < ({ units := [State.reset] } : Platform).units.length := by decide

/-- TransformStatementStoresResp, both clauses: twenty bytes and nineteen. -/
theorem witness_transform_statement :
    (hostWith [] bufB1.toList).block.notExecuting ∧
      Store.get 1 (hostWith [] bufB1.toList).host.buffers = some bufB1.toList ∧
      Reference.transform bufB1.toList = .ok (.header (transformInto bufB1 bufB1)) ∧
      Store.get 1 (hostWith [] bytes19).host.buffers = some bytes19 ∧ bytes19.length ≠ 20 :=
  ⟨(fun _ _ h => nomatch h), by decide, by decide, by decide, by decide⟩

/-- SetFlagsWbChangesOffsetThirteenOnly, and SetFlagsStatementWritesNoBuffer. -/
theorem witness_setFlagsWb :
    (hostWith [] bufB1.toList).block.notExecuting ∧
      Store.get 1 (hostWith [] bufB1.toList).host.buffers = some bufB1.toList ∧
      bufB1.toList[13]? = some 0x12 :=
  ⟨(fun _ _ h => nomatch h), by decide, by decide⟩

/-- A host whose last response is given, with a script that has the label 7. -/
def hostAfter (r : Response) : System :=
  let sys := System.start [⟨[], .ifNotOkGoto 7⟩, ⟨[7], .halt⟩]
  { sys with host := { sys.host with view := some r } }

/-- BranchesFollowTheStatus, the three clauses of the conditional branch. -/
theorem witness_branches :
    labelIndex 7 (System.start [⟨[7], .halt⟩]).host.script = some 0 ∧
      (System.start [⟨[7], .halt⟩]).host.view = none ∧
    labelIndex 7 (hostAfter (.ok (.flags 0))).host.script = some 1 ∧
      (hostAfter (.ok (.flags 0))).host.view = some (.ok (.flags 0)) ∧
      labelIndex 7 (hostAfter (.error .malformedHeader)).host.script = some 1 ∧
      (hostAfter (.error .malformedHeader)).host.view = some (.error .malformedHeader) := by decide

/-- R52's code of ILLEGAL_COMMAND and R53's ACTIVE as bytes of a statement; FLAGS_OUT is absent after an
error (U6). -/
theorem test_value_names :
    (hostAfter (.error .illegalCommand)).value .status =
        .next (0x02, hostAfter (.error .illegalCommand)) ∧
      (hostAfter (.ok (.decoded 1 2 3 4 0x12))).value .active =
        .next (0x12, hostAfter (.ok (.decoded 1 2 3 4 0x12))) ∧
      (hostAfter (.error .illegalCommand)).value .flagsOut = .refused .notCarried :=
  ⟨rfl, rfl, rfl⟩

/-- ScriptReadsFollowTheLastResponse, the clauses about a script's view: DECODE's response, SETFLAGS's
response, an error, and a host that has had no response. -/
theorem witness_views :
    (hostAfter (.ok (.decoded 1 2 3 4 0x12))).host.view = some (.ok (.decoded 1 2 3 4 0x12)) ∧
      (hostAfter (.ok (.flags 0x31))).host.view = some (.ok (.flags 0x31)) ∧
      (hostAfter (.error .illegalCommand)).host.view = some (.error .illegalCommand) ∧
      ∀ c, (System.start []).host.view ≠ some (.error c) :=
  ⟨rfl, rfl, rfl, (fun _ h => nomatch h)⟩

/-- StatementsKeepTheHostLegal. -/
theorem witness_statement :
    let sys := hostAfter (.error .malformedHeader)
    sys.host.wf = true ∧ sys.block.notExecuting ∧ sys.block.wf = true ∧
      sys.step = .next { sys with host := { sys.host with index := 1 } } :=
  ⟨rfl, (fun _ _ h => nomatch h), rfl, rfl⟩

end Sys2Proof.Tests
end

/-! # What the command word and the request determine

The machine's response to a word and a request is `Reference.exec` of them (R12). The parts: the decoder reads a
word as R55's dispatch tests it, and each command's response function is the reference's. -/

namespace Sys2Proof

/-- Two zero bits, four zero bits and eight zero bits above OP are fourteen zero bits (R46, R51). -/
theorem extractLsb'_two_fourteen_eq_zero_iff (w : Word) :
    w.extractLsb' 2 14 = 0 ↔
      w.getLsbD 2 = false ∧ w.getLsbD 3 = false ∧ w.extractLsb' 4 4 = 0 ∧ w.extractLsb' 8 8 = 0 := by
  simp only [← BitVec.toNat_inj, BitVec.extractLsb'_toNat, BitVec.getLsbD, Nat.testBit_eq_decide_div_mod_eq,
    Nat.shiftRight_eq_div_pow, decide_eq_false_iff_not, BitVec.ofNat_eq_ofNat, BitVec.toNat_zero]
  have := w.isLt
  omega

/-- The decoder answers a command exactly on the words that hold its fields. -/
theorem decodeWord_eq_ok_iff {w : Word} {i : Instr} : decodeWord w = .ok i ↔ fieldsOf w = i.fields :=
  commandOf_eq_ok

/-- DECODE's only word: OP = 0 and zeros above it (R55). -/
theorem decodeWord_eq_decode_iff (w : Word) :
    decodeWord w = .ok .decode ↔ w.extractLsb' 0 2 = 0b00 ∧ w.extractLsb' 2 14 = 0 := by
  simp only [decodeWord_eq_ok_iff, fieldsOf, Instr.fields, CommandFields.mk.injEq,
    extractLsb'_two_fourteen_eq_zero_iff]

/-- TRANSFORM's only word: OP = 1 and zeros above it (R55). -/
theorem decodeWord_eq_transform_iff (w : Word) :
    decodeWord w = .ok .transform ↔ w.extractLsb' 0 2 = 0b01 ∧ w.extractLsb' 2 14 = 0 := by
  simp only [decodeWord_eq_ok_iff, fieldsOf, Instr.fields, CommandFields.mk.injEq,
    extractLsb'_two_fourteen_eq_zero_iff]

/-- SETFLAGS's words: OP = 2, RSV = 0, and the operands where R46 has them. -/
theorem decodeWord_eq_setFlags_iff (w : Word) (f : Byte) (a s : Bool) :
    decodeWord w = .ok (.setFlags f a s) ↔
      (w.extractLsb' 0 2 = 0b10 ∧ w.extractLsb' 4 4 = 0) ∧
        w.extractLsb' 8 8 = f ∧ w.getLsbD 2 = a ∧ w.getLsbD 3 = s := by
  simp only [decodeWord_eq_ok_iff, fieldsOf, Instr.fields, CommandFields.mk.injEq]
  tauto

end Sys2Proof

namespace Sys2Proof.Machine

/-! The length check of DECODE and TRANSFORM. -/

theorem decodeResponse_of_length_ne {req : List Byte} (h : req.length ≠ hdrLen) :
    decodeResponse req = .error .malformedHeader := by
  simp [decodeResponse, headerOf_of_length_ne h]

theorem transformResponse_of_length_ne (blank : Header) {req : List Byte} (h : req.length ≠ hdrLen) :
    transformResponse blank req = .error .malformedHeader := by
  simp [transformResponse, headerOf_of_length_ne h]

@[simp] theorem decodeResponse_toList (buf : Header) :
    decodeResponse buf.toList = .ok (decodeHeader buf) := by
  simp [decodeResponse]

@[simp] theorem transformResponse_toList (blank buf : Header) :
    transformResponse blank buf.toList = .ok (.header (transformInto blank buf)) := by
  simp [transformResponse]

/-- The bytes of a header, one by one. -/
theorem header_toList_eq (buf : Header) :
    buf.toList =
      [buf[0], buf[1], buf[2], buf[3], buf[4], buf[5], buf[6], buf[7], buf[8], buf[9],
       buf[10], buf[11], buf[12], buf[13], buf[14], buf[15], buf[16], buf[17], buf[18], buf[19]] := by
  apply List.ext_getElem
  · simp
  · intro i h1 h2
    have : i < 20 := h2
    interval_cases i <;> simp

/-! TRANSFORM's source port. -/

/-- Bit 15 of a port is bit 7 of its high byte (R72, R74). -/
theorem word16_portTestBit (b1 b0 : Byte) :
    (Reference.word16 b1 b0).getLsbD portTestBit = b1.getLsbD 7 := word16_getLsbD b1 b0 15

/-- The mask 0x1020 is 0x20 on the low byte (R72, R74). -/
theorem scramble_word16_low (b1 b0 : Byte) :
    (scramble (Reference.word16 b1 b0)).extractLsb' 0 8 =
      if b1.getLsbD 7 then b0 ^^^ 0x20 else b0 := by
  rw [scramble, word16_portTestBit]
  split
  · rw [BitVec.extractLsb'_xor, (word16_bytes b1 b0).1]
    rfl
  · exact (word16_bytes b1 b0).1

/-- The mask 0x1020 is 0x10 on the high byte (R72, R74). -/
theorem scramble_word16_high (b1 b0 : Byte) :
    (scramble (Reference.word16 b1 b0)).extractLsb' 8 8 =
      if b1.getLsbD 7 then b1 ^^^ 0x10 else b1 := by
  rw [scramble, word16_portTestBit]
  split
  · rw [BitVec.extractLsb'_xor, (word16_bytes b1 b0).2]
    rfl
  · exact (word16_bytes b1 b0).2

end Sys2Proof.Machine

namespace Sys2Proof.Reference

open Sys2Proof.Machine

/-! The reference on the byte list of a header and on any other. -/

theorem decode_of_length_ne {req : List Byte} (h : req.length ≠ hdrLen) :
    decode req = .error .malformedHeader := by
  unfold decode
  split
  · exact absurd rfl h
  · rfl

theorem transform_of_length_ne {req : List Byte} (h : req.length ≠ hdrLen) :
    transform req = .error .malformedHeader := by
  unfold transform
  split
  · exact absurd rfl h
  · rfl

theorem decode_toList (buf : Header) :
    decode buf.toList = .ok (decodeHeader buf) := by
  rw [header_toList_eq]
  simp only [decodeHeader, rd16_eq_append, rd32_eq_append]
  rfl

theorem transform_toList (blank buf : Header) :
    transform buf.toList = .ok (.header (transformInto blank buf)) := by
  rw [header_toList_eq, transformInto_eq]
  simp only [rd16_eq_append, rd32_eq_append, scramble_word16_low, scramble_word16_high]
  rfl

end Sys2Proof.Reference

namespace Sys2Proof.Machine

/-! Each command's response function is the reference's. -/

/-- DECODE by fields is DECODE by bytes (R64, R65). -/
theorem decodeResponse_eq_reference (req : List Byte) :
    decodeResponse req = Reference.decode req := by
  obtain ⟨buf, rfl⟩ | h := header_or_length_ne req
  · rw [decodeResponse_toList, Reference.decode_toList]
  · rw [decodeResponse_of_length_ne h, Reference.decode_of_length_ne h]

/-- R71's writes give R72's byte map, whatever they are written over. -/
theorem transformResponse_eq_reference (blank : Header) (req : List Byte) :
    transformResponse blank req = Reference.transform req := by
  obtain ⟨buf, rfl⟩ | h := header_or_length_ne req
  · rw [transformResponse_toList, Reference.transform_toList blank]
  · rw [transformResponse_of_length_ne blank h, Reference.transform_of_length_ne h]

/-- The two edits in R83's closed form. -/
theorem editFlags_eq_closedForm (f : Byte) (a s : Bool) :
    editFlags f a s =
      (f &&& 0xCF) ||| ((BitVec.ofBool a).setWidth 8 <<< 5) ||| ((BitVec.ofBool s).setWidth 8 <<< 4) := by
  apply BitVec.eq_of_getLsbD_eq
  intro i hi
  rw [editFlags_getLsbD f a s i hi]
  interval_cases i <;> simp

theorem setFlagsResponse_eq_reference (f : Byte) (a s : Bool) :
    setFlagsResponse f a s = Reference.setFlags f a s := by
  rw [setFlagsResponse, editFlags_eq_closedForm, Reference.setFlags]

/-! The dispatch. -/

/-- The machine's response function is `Exec(cmd, req)`: nothing that RESP held has a part in it (R12, R55). -/
theorem wordResponse_eq_reference (blank : Header) (w : Word) (req : List Byte) :
    wordResponse blank w req = Reference.exec w req := by
  unfold Reference.exec
  split_ifs with hdec htr hset
  · rw [wordResponse, (decodeWord_eq_decode_iff w).2 hdec]
    exact decodeResponse_eq_reference req
  · rw [wordResponse, (decodeWord_eq_transform_iff w).2 htr]
    exact transformResponse_eq_reference blank req
  · rw [wordResponse, (decodeWord_eq_setFlags_iff w _ _ _).2 ⟨hset, rfl, rfl, rfl⟩]
    exact setFlagsResponse_eq_reference _ _ _
  · rw [wordResponse]
    cases hw : decodeWord w with
    | error e => rfl
    | ok i =>
      cases i with
      | decode => exact absurd ((decodeWord_eq_decode_iff w).1 hw) hdec
      | transform => exact absurd ((decodeWord_eq_transform_iff w).1 hw) htr
      | setFlags f a s => exact absurd ((decodeWord_eq_setFlags_iff w f a s).1 hw).1 hset

/-! The step, one command of a session, and a session. -/

/-- A step answers the outstanding command with `Exec` of its latched operands. -/
theorem step_eq_answer_reference {s : State} {w : Word} {req : List Byte}
    (h : s.phase = .executing w req) : step s = .next (s.answer (Reference.exec w req)) := by
  rw [step_executing h, wordResponse_eq_reference]

/-- Settles O9: a step puts `Exec` of the latched operands on the lines and leaves the ports alone. -/
theorem stepRefinesExec : Obligations.StepRefinesExec := by
  intro s w req h
  exact ⟨s.answer (Reference.exec w req), step_eq_answer_reference h, State.answer_response _ s,
    State.answer_cmd _ s, State.answer_req _ s, State.answer_not_executing _ s⟩

/-- A block that waits answers a command with `Exec` of it, and waits again. -/
theorem State.command_refines {s : State} (h : s.notExecuting) (p : Presented) :
    ∃ t, s.command p = .next t ∧ t.response = some (Reference.exec p.cmd p.req) ∧ t.notExecuting := by
  refine ⟨_, State.command_eq h p, ?_, State.answer_not_executing _ _⟩
  rw [State.answer_response, wordResponse_eq_reference]

/-- Settles O38: both responses are `Exec` of the command, which knows no history. -/
theorem responseIsIndependentOfTheHistory : Obligations.ResponseIsIndependentOfTheHistory := by
  intro s s' p hs hs'
  obtain ⟨t, ht, hr, -⟩ := State.command_refines hs p
  obtain ⟨t', ht', hr', -⟩ := State.command_refines hs' p
  exact ⟨t, t', ht, ht', hr.trans hr'.symm, by rw [hr]; rfl⟩

/-- A session from time `now` on: no response comes back before `now`, which is what the order of the times
needs of the rest of the session. -/
theorem runSession_refines (ps : List Timed) (now : Nat) (s : State) (h : s.notExecuting) :
    ∃ t rs, runSession now s ps = .next (t, rs) ∧ t.notExecuting ∧
      rs.map Received.response =
        ps.map (fun p => some (Reference.exec p.presented.cmd p.presented.req)) ∧
      (rs.map Received.time).Pairwise (· ≤ ·) ∧ ∀ x ∈ rs.map Received.time, now ≤ x := by
  induction ps generalizing now s with
  | nil => exact ⟨s, [], rfl, h, rfl, List.Pairwise.nil, by simp⟩
  | cons p ps ih =>
    obtain ⟨u, hu, hresp, hidle⟩ := State.command_refines h p.presented
    obtain ⟨t, rs, hrun, ht, hrs, hsorted, hlater⟩ := ih (now + p.wait + p.latency) u hidle
    have hnow : now ≤ now + p.wait + p.latency := by omega
    refine ⟨t, ⟨now + p.wait + p.latency, u.response⟩ :: rs, ?_, ht, ?_, ?_, ?_⟩
    · rw [runSession, hu, andThen_next, hrun, andThen_next]
    · rw [List.map_cons, List.map_cons, hrs, hresp]
    · exact List.pairwise_cons.2 ⟨hlater, hsorted⟩
    · intro x hx
      rcases List.mem_cons.1 hx with rfl | hx
      · exact hnow
      · exact hnow.trans (hlater x hx)

/-- Settles O39, by induction on the commands of the session (`runSession_refines`). -/
theorem sessionAnswersInIssueOrder : Obligations.SessionAnswersInIssueOrder := by
  intro ps now s h
  obtain ⟨t, rs, hrun, ht, hrs, hsorted, -⟩ := runSession_refines ps now s h
  exact ⟨t, rs, hrun, ht, hrs, hsorted⟩

/-! Lengths that REQ_LEN cannot carry. -/

/-- Twenty fits in the five bits that LEN_W has at least. -/
theorem presentable_hdrLen : Config.presentable hdrLen := by
  have hpow : 2 ^ 5 ≤ 2 ^ Config.lenW := Nat.pow_le_pow_right (by decide) (Nat.le_add_right 5 _)
  exact Nat.lt_of_lt_of_le (by decide) hpow

/-- Settles O40: such a length is not twenty, since twenty is representable. -/
theorem unrepresentableLengthsAreRejected : Obligations.UnrepresentableLengthsAreRejected := by
  refine ⟨presentable_hdrLen, fun s w req hphase hlen => ?_⟩
  have hne : req.length ≠ hdrLen := fun e => hlen (e ▸ presentable_hdrLen)
  constructor
  · rw [exec_executing hphase, responseOf, decodeResponse_of_length_ne hne, State.answer_error]
  · rw [exec_executing hphase, responseOf, transformResponse_of_length_ne _ hne, State.answer_error]

/-! The units of a platform. -/

/-- Every step of the block answers next (R116). -/
theorem exists_step_eq_next (s : State) : ∃ t, step s = .next t := by
  obtain ⟨_, _, -, h⟩ | ⟨-, h⟩ := step_cases s <;> exact ⟨_, h⟩

theorem Platform.reset_length : Platform.reset.units.length = Config.nInstances := by
  simp [Platform.reset]

/-- The k-th unit at reset is a block after reset that draws from stream k. -/
theorem Platform.reset_getElem?_eq_some {k : Nat} {s : State} (h : Platform.reset.units[k]? = some s) :
    s = { State.reset with stream := k } := by
  simp only [Platform.reset, List.getElem?_map, Option.map_eq_some_iff] at h
  obtain ⟨j, hj, rfl⟩ := h
  obtain ⟨_, rfl⟩ := List.getElem?_eq_some_iff.1 hj
  simp

/-- Settles O45: each unit at reset is a block after reset with its place as stream, and every step answers. -/
theorem instancesStartIdle : Obligations.InstancesStartIdle := by
  refine ⟨Platform.reset_length, Nat.le_add_right 1 _, ?_, ?_, ?_⟩
  · intro s hs
    obtain ⟨k, hk⟩ := List.mem_iff_getElem?.1 hs
    rw [Platform.reset_getElem?_eq_some hk]
    exact ⟨rfl, State.response_idle rfl⟩
  · intro k s hk
    rw [Platform.reset_getElem?_eq_some hk]
  · intro p k hk
    obtain ⟨t, ht⟩ := exists_step_eq_next p.units[k]
    exact ⟨_, Platform.onUnit_eq (List.getElem?_eq_getElem hk) ht⟩

end Sys2Proof.Machine

/-! # The standing response and the frame of the block's operations

`State.wf` speaks of the phase and of STATUS alone. So it holds of every block that shows no response, and an
answered response meets it by itself (`State.answer_wf`). -/

namespace Sys2Proof.Machine

/-- With no response on the lines there is nothing that could be illegal. -/
theorem State.wf_of_not_answered {s : State} (h : ∀ k, s.phase ≠ .answered k) : s.wf = true := by
  unfold State.wf
  cases hp : s.phase with
  | idle => rfl
  | executing w req => rfl
  | answered k => exact absurd hp (h k)

@[simp] theorem State.writeCmd_wf (w : Word) (s : State) : (s.writeCmd w).wf = s.wf := rfl

@[simp] theorem State.writeReq_wf (req : List Byte) (s : State) : (s.writeReq req).wf = s.wf := rfl

/-- Settles O42: a step puts a response on the lines, which is legal, or changes nothing. -/
theorem stepKeepsTheResponseLegal : Obligations.StepKeepsTheResponseLegal := by
  intro s t hs ht
  obtain ⟨w, req, -, hstep⟩ | ⟨-, hstep⟩ := step_cases s
  · obtain rfl : s.answer _ = t := by simpa [hstep] using ht
    exact State.answer_wf _ s
  · obtain rfl : s = t := by simpa [hstep] using ht
    exact hs

/-- Settles O43: a port write leaves phase and STATUS, and the other operations end with no response. -/
theorem portOperationsKeepTheResponseLegal : Obligations.PortOperationsKeepTheResponseLegal := by
  refine ⟨State.wf_of_not_answered (by simp [State.reset]), fun s hs => ⟨?_, ?_, ?_, ?_, ?_⟩⟩
  · intro w
    rwa [State.writeCmd_wf]
  · intro req
    rwa [State.writeReq_wf]
  · exact State.wf_of_not_answered (by simp)
  · intro t ht
    obtain ⟨-, rfl⟩ := State.issue_cases ht
    exact State.wf_of_not_answered (by simp)
  · exact fun n w => State.wf_of_not_answered (by simp)

/-! The dispatch and the latched operands. -/

/-- Settles O8: the three branches of the step. -/
theorem stepRunsTheDecodedCommand : Obligations.StepRunsTheDecodedCommand := by
  refine ⟨?_, ?_, ?_⟩
  · intro s w req i hphase hw
    rw [step_executing hphase, exec_executing hphase, wordResponse, hw]
  · intro s w req e hphase hw
    rw [step_executing hphase, wordResponse, hw, State.answer_error]
  · exact fun s hs => step_not_executing hs

/-- Settles O13: every command answers, and an answer leaves the ports and the stream alone. -/
theorem commandsLeaveThePortsAlone : Obligations.CommandsLeaveThePortsAlone := by
  intro i s w req hphase
  refine ⟨_, exec_executing hphase i, State.answer_cmd _ s, ?_, ?_, State.answer_not_executing _ s,
    State.answer_draws _ s, State.answer_stream _ s⟩
  · rw [State.reqLen, State.answer_req, State.reqLen]
  · intro k
    rw [State.answer_req]

/-- Settles O37: the step answers `Exec` of the operands latched in the phase, which no port write reaches. -/
theorem portWritesAfterIssueDoNotMatter : Obligations.PortWritesAfterIssueDoNotMatter := by
  intro s w w' req req' hphase
  have hphase' : ((s.writeCmd w').writeReq req').phase = .executing w req := hphase
  refine ⟨_, _, step_eq_answer_reference hphase, step_eq_answer_reference hphase', ?_, ?_⟩
  · rw [State.answer_response, State.answer_response]
  · rw [State.answer_response, Option.isSome_some]

/-! What an OK response carries. -/

/-- A response whose status is not OK has no result. -/
theorem Response.result_eq_none {r : Response} (h : r.status ≠ .ok) : r.result = none := by
  cases r with
  | ok result => exact absurd rfl h
  | error c => rfl

/-- An OK response of DECODE is that of a header's fields. -/
theorem decodeResponse_of_status_ok {req : List Byte} (h : (decodeResponse req).status = .ok) :
    ∃ buf : Header, decodeResponse req = .ok (decodeHeader buf) := by
  obtain ⟨buf, rfl⟩ | hne := header_or_length_ne req
  · exact ⟨buf, decodeResponse_toList buf⟩
  · rw [decodeResponse_of_length_ne hne] at h
    exact absurd h (Response.error_status_ne_ok _)

/-- An OK response of TRANSFORM carries a header. -/
theorem transformResponse_of_status_ok {blank : Header} {req : List Byte}
    (h : (transformResponse blank req).status = .ok) :
    ∃ resp : Header, transformResponse blank req = .ok (.header resp) := by
  obtain ⟨buf, rfl⟩ | hne := header_or_length_ne req
  · exact ⟨_, transformResponse_toList blank buf⟩
  · rw [transformResponse_of_length_ne blank hne] at h
    exact absurd h (Response.error_status_ne_ok _)

/-- Settles O12: the command's response function gives a result of its own kind or an error, and the answer
puts it on that kind's lines. -/
theorem responseCarriesOnlyItsOwnResult : Obligations.ResponseCarriesOnlyItsOwnResult := by
  intro i s w req hphase
  refine ⟨_, _, exec_executing hphase i, State.answer_response _ s, Response.result_eq_none, fun hok => ?_⟩
  cases i with
  | decode =>
    obtain ⟨buf, hbuf⟩ := decodeResponse_of_status_ok hok
    simp only [responseOf, hbuf]
    exact ⟨_, _, _, _, _, rfl, rfl, rfl, rfl, rfl, rfl⟩
  | transform =>
    obtain ⟨resp, hresp⟩ := transformResponse_of_status_ok hok
    simp only [responseOf, hresp]
    exact ⟨resp, rfl, rfl⟩
  | setFlags f a b => exact ⟨editFlags f a b, rfl, rfl⟩

/-! Reads of a script. -/

/-- Nothing is read from a block whose lines show no response. -/
theorem State.response_of_not_answered {s : State} (h : ∀ k, s.phase ≠ .answered k) :
    s.response = none := by
  cases hp : s.phase with
  | idle => exact State.response_idle hp
  | executing w req => exact State.response_executing hp
  | answered k => exact absurd hp (h k)

/-- Unless the last response is an error, a result name has a value to read. -/
theorem System.exists_readResult {α : Type} (name : Result → Option α) (free : Nat → α) {sys : System}
    (h : ∀ c, sys.host.view ≠ some (.error c)) : ∃ p, sys.readResult name free = .next p := by
  unfold System.readResult
  split
  · next c hv => exact absurd hv (h c)
  · split <;> exact ⟨_, rfl⟩
  · exact ⟨_, rfl⟩

/-- Unless the last response is an error, each of the three names has a value to read. -/
theorem System.exists_value_of_name {sys : System} (h : ∀ c, sys.host.view ≠ some (.error c)) {v : ByteVal}
    (hv : v = .status ∨ v = .active ∨ v = .flagsOut) : ∃ x t, sys.value v = .next (x, t) := by
  rcases hv with rfl | rfl | rfl
  · exact ⟨_, _, rfl⟩
  · obtain ⟨p, hp⟩ := System.exists_readResult Result.active? Config.freeReadActive h
    rw [System.value, hp]
    exact ⟨_, _, rfl⟩
  · obtain ⟨p, hp⟩ := System.exists_readResult Result.flagsOut? Config.freeReadFlagsOut h
    exact ⟨p.1, p.2, hp⟩

/-- Settles O41: the view decides each read, and a read changes at most the model's own counter. -/
theorem scriptReadsFollowTheLastResponse : Obligations.ScriptReadsFollowTheLastResponse := by
  refine ⟨fun s => State.response_of_not_answered, fun sys => ⟨?_, ?_, ?_, ?_, ?_⟩⟩
  · intro r hview
    rw [System.value, System.readStatus_some hview]
  · intro sp dp sq ak ac hview
    rw [System.value, System.readResult_carried (name := Result.active?) hview rfl, andThen_next]
  · intro f hview
    rw [System.value, System.readResult_carried (name := Result.flagsOut?) hview rfl]
  · intro c hview
    constructor
    · rw [System.value, System.readResult_error hview, andThen_refused]
    · rw [System.value, System.readResult_error hview]
  · intro hview v hv
    obtain ⟨x, t, ht⟩ := System.exists_value_of_name hview hv
    refine ⟨x, t, ht, ?_⟩
    obtain rfl | rfl := System.value_cases ht <;> simp

/-! # The host around the block

Every operation of a script, from a single store up to a statement, is in the relation `System.LegalStep`
(R62, R95, R113). It is reflexive and transitive, so an operation made of parts is in it when its parts are. -/

/-- A host whose stores are canonical and whose block waits with a legal response. -/
structure System.Legal (sys : System) : Prop where
  stores : sys.host.wf = true
  waits : sys.block.notExecuting
  response : sys.block.wf = true

/-- From `sys` to `t` a legal host stays legal, the fault log only grows and the script stays. -/
structure System.LegalStep (sys t : System) : Prop where
  legal : sys.Legal → t.Legal
  faultLog : sys.host.faultLog <+: t.host.faultLog
  script : t.host.script = sys.host.script

@[refl] theorem System.LegalStep.refl (sys : System) : sys.LegalStep sys :=
  ⟨id, List.prefix_rfl, rfl⟩

theorem System.LegalStep.trans {sys t u : System} (h : sys.LegalStep t) (h' : t.LegalStep u) :
    sys.LegalStep u :=
  ⟨h'.legal ∘ h.legal, h.faultLog.trans h'.faultLog, h'.script.trans h.script⟩

/-! The host's own operations. -/

/-- A host operation that leaves the block, the fault log and the script alone needs only to keep the stores
canonical. -/
theorem System.LegalStep.of_host {sys t : System} (hblock : t.block = sys.block)
    (hstores : sys.host.wf = true → t.host.wf = true) (hlog : t.host.faultLog = sys.host.faultLog)
    (hscript : t.host.script = sys.host.script) : sys.LegalStep t where
  legal h := ⟨hstores h.stores, hblock ▸ h.waits, hblock ▸ h.response⟩
  faultLog := by rw [hlog]
  script := hscript

theorem System.legalStep_putBuffer (b : BufName) (bytes : List Byte) (sys : System) :
    sys.LegalStep (sys.putBuffer b bytes) :=
  .of_host rfl (System.putBuffer_wf b bytes) rfl rfl

theorem System.legalStep_putVar (x : VarName) (v : Byte) (sys : System) :
    sys.LegalStep { sys with host := { sys.host with vars := sys.host.vars.put x v } } := by
  refine .of_host rfl (fun h => ?_) rfl rfl
  simp only [HostState.wf, Bool.and_eq_true] at h ⊢
  exact ⟨h.1, Store.wf_put x v h.2⟩

theorem System.legalStep_setIndex (i : Nat) (sys : System) :
    sys.LegalStep { sys with host := { sys.host with index := i } } :=
  .of_host rfl id rfl rfl

theorem System.legalStep_advance (sys : System) : sys.LegalStep sys.advance :=
  sys.legalStep_setIndex _

theorem System.legalStep_countRead (sys : System) : sys.LegalStep sys.countRead :=
  .of_host rfl id rfl rfl

theorem System.legalStep_readStatus (sys : System) : sys.LegalStep sys.readStatus.2 := by
  obtain h | h := sys.readStatus_snd <;> rw [h]
  exact sys.legalStep_countRead

theorem System.legalStep_value {sys t : System} {v : ByteVal} {b : Byte} (h : sys.value v = .next (b, t)) :
    sys.LegalStep t := by
  obtain rfl | rfl := System.value_cases h
  · rfl
  · exact sys.legalStep_countRead

theorem System.legalStep_writeByte {sys t : System} {b : BufName} {i : Nat} {v : Byte}
    (h : sys.writeByte b i v = .next t) : sys.LegalStep t := by
  obtain ⟨bytes, -, h⟩ := andThen_eq_next h
  split at h <;> cases h
  exact sys.legalStep_putBuffer _ _

theorem System.legalStep_storeResp (dst : BufName) (sys : System) : sys.LegalStep (sys.storeResp dst) := by
  obtain ⟨resp, -, h⟩ | h := sys.storeResp_cases dst <;> rw [h]
  exact sys.legalStep_putBuffer _ _

theorem System.legalStep_branch {sys t : System} {l : Label} (h : sys.branch l = .next t) :
    sys.LegalStep t := by
  unfold System.branch at h
  split at h <;> cases h
  exact sys.legalStep_setIndex _

/-! The statements with a command word. -/

/-- Whatever block took the command, it ends with an answer, and the host collects it. -/
theorem System.legalStep_command {ports : State → State} {sys t : System}
    (h : sys.command ports = .next t) : sys.LegalStep t := by
  obtain ⟨r, hhost, hblock, -⟩ := System.command_cases h
  refine ⟨fun hlegal => ⟨?_, ?_, ?_⟩, ?_, ?_⟩
  · rw [hhost, HostState.collect_wf]
    exact hlegal.stores
  · rw [hblock]
    exact State.answer_not_executing r _
  · rw [hblock, State.answer_wf]
  · rw [hhost]
    exact HostState.faultLog_prefix_collect r _
  · rw [hhost, HostState.collect_script]

theorem System.legalStep_commandOn {w : Word} {b : BufName} {sys t : System}
    (h : sys.commandOn w b = .next t) : sys.LegalStep t := by
  obtain ⟨bytes, -, h⟩ := andThen_eq_next h
  exact System.legalStep_command h

/-! Statements. -/

theorem legalStep_runAct {a : Act} {sys t : System} (h : runAct a sys = .next t) : sys.LegalStep t := by
  cases a with
  | makeBuf b bytes =>
    cases h
    exact sys.legalStep_putBuffer b bytes
  | writeByte b i v =>
    obtain ⟨p, hp, h⟩ := andThen_eq_next h
    exact (System.legalStep_value hp).trans (System.legalStep_writeByte h)
  | readByte x b i =>
    obtain ⟨v, -, h⟩ := andThen_eq_next h
    cases h
    exact sys.legalStep_putVar x v
  | decode b => exact System.legalStep_commandOn h
  | transform b dst =>
    obtain ⟨u, hu, h⟩ := andThen_eq_next h
    cases h
    exact (System.legalStep_commandOn hu).trans (u.legalStep_storeResp dst)
  | setFlags f a s =>
    obtain ⟨p, hp, h⟩ := andThen_eq_next h
    exact (System.legalStep_value hp).trans (System.legalStep_command h)
  | raw w b => exact System.legalStep_commandOn h

theorem legalStep_runActs {as : List Act} {sys t : System} (h : runActs as sys = .next t) :
    sys.LegalStep t := by
  induction as generalizing sys with
  | nil =>
    cases h
    rfl
  | cons a as ih =>
    obtain ⟨u, hu, h⟩ := andThen_eq_next h
    exact (legalStep_runAct hu).trans (ih h)

theorem legalStep_runStmt {st : Stmt} {sys t : System} (h : runStmt st sys = .next t) :
    sys.LegalStep t := by
  cases st with
  | act a =>
    obtain ⟨u, hu, h⟩ := andThen_eq_next h
    cases h
    exact (legalStep_runAct hu).trans u.legalStep_advance
  | setFlagsWb b a s =>
    obtain ⟨u, hu, h⟩ := andThen_eq_next h
    cases h
    exact (legalStep_runActs hu).trans u.legalStep_advance
  | ifNotOkGoto l =>
    refine sys.legalStep_readStatus.trans ?_
    simp only [runStmt] at h
    split at h
    · cases h
      exact System.legalStep_advance _
    · exact System.legalStep_branch h
  | goto l => exact System.legalStep_branch h
  | halt =>
    cases h
    exact .of_host rfl id rfl rfl

/-- Everything a step of the host can do: nothing after HALT, or the statement at the index. -/
theorem System.step_cases {sys t : System} (h : sys.step = .next t) :
    t = sys ∨ ∃ line, sys.host.script[sys.host.index]? = some line ∧ runStmt line.stmt sys = .next t := by
  unfold System.step at h
  split at h
  · cases h
    exact .inl rfl
  · split at h
    · cases h
    · next line hline => exact .inr ⟨line, hline, h⟩

theorem System.legalStep_step {sys t : System} (h : sys.step = .next t) : sys.LegalStep t := by
  obtain rfl | ⟨line, -, h⟩ := System.step_cases h
  · rfl
  · exact legalStep_runStmt h

/-- Settles O50: a step of the host is a `System.LegalStep`, built up from those of its parts. -/
theorem statementsKeepTheHostLegal : Obligations.StatementsKeepTheHostLegal := by
  intro sys t hstores hwaits hresponse h
  obtain ⟨hlegal, hlog, hscript⟩ := System.legalStep_step h
  obtain ⟨hstores', hwaits', hresponse'⟩ := hlegal ⟨hstores, hwaits, hresponse⟩
  exact ⟨hstores', hwaits', hresponse', hlog, hscript⟩

end Sys2Proof.Machine

/-! # Header buffers: the fields and the bytes (R30 to R40, R69, R72)

What the fields read is what their bytes are, so a statement about fields is one about single offsets. Cells
that hold a buffer's own bytes (`CellsOf`) put those bytes back at the offsets they name and touch no other:
that one fact is both the read-then-write half of R40 and the tiling of R30. -/

namespace Sys2Proof.Machine

/-! A wide field. -/

/-- Four bytes as a word are two bytes each in its low and its high half (R39). -/
theorem word32_eq_halves (b3 b2 b1 b0 : Byte) :
    Reference.word32 b3 b2 b1 b0 =
      (Reference.word16 b1 b0).setWidth 32 ||| ((Reference.word16 b3 b2).setWidth 32 <<< 16) := by
  apply BitVec.eq_of_getLsbD_eq
  intro i hi
  simp only [BitVec.getLsbD_or, BitVec.getLsbD_setWidth, BitVec.getLsbD_shiftLeft, word16_getLsbD,
    word32_getLsbD, hi]
  rcases Nat.lt_or_ge i 16 with hlow | hhigh
  · simp [hlow]
  · have hzero : b1.getLsbD (i - 8) = false := BitVec.getLsbD_of_ge _ _ (by omega)
    have hhalf : i - 16 < 8 ↔ i < 24 := by omega
    simp [hzero, hhalf, show ¬ i < 8 by omega, show ¬ i < 16 by omega, show i - 16 < 32 by omega,
      show i - 16 - 8 = i - 24 by omega]

/-- Settles O32: both sides are the same four bytes. -/
theorem wideFieldIsItsHalves : Obligations.WideFieldIsItsHalves := by
  intro buf off h
  rw [rd32_eq_append, rd16_eq_append, rd16_eq_append]
  exact word32_eq_halves _ _ _ _

/-! A value written and read back. -/

theorem rd16_storeCells_wr16 (buf : Header) (off : Nat) (h : off + 1 < hdrLen) (v : BitVec 16) :
    rd16 (storeCells buf (wr16 off v)) off h = v := by
  rw [rd16_eq_append]
  simp only [wr16, memWrite, storeCells_cons, storeCells_nil, storeCell_getElem]
  simpa using word16_extract v

theorem rd32_storeCells_wr32 (buf : Header) (off : Nat) (h : off + 3 < hdrLen) (v : BitVec 32) :
    rd32 (storeCells buf (wr32 off v)) off h = v := by
  rw [rd32_eq_append]
  simp only [wr32, memWrite, storeCells_cons, storeCells_nil, storeCell_getElem]
  simpa [Nat.add_assoc] using word32_extract v

/-! A buffer's own bytes written back. -/

/-- Every cell is a byte of `buf` at its own offset. -/
def CellsOf (buf : Header) (cells : List Host.Cell) : Prop :=
  ∀ c ∈ cells, buf[c.1]? = some c.2

theorem CellsOf.append {buf : Header} {cs ds : List Host.Cell} (hcs : CellsOf buf cs)
    (hds : CellsOf buf ds) : CellsOf buf (cs ++ ds) := by
  intro c hc
  exact (List.mem_append.1 hc).elim (hcs c) (hds c)

/-- A buffer's own bytes overwrite those at the offsets they name and no others. -/
theorem CellsOf.storeCells_getElem {buf : Header} {cells : List Host.Cell} (hcells : CellsOf buf cells)
    (blank : Header) (i : Nat) (hi : i < hdrLen) :
    (storeCells blank cells)[i] = if i ∈ cells.map Prod.fst then buf[i] else blank[i] := by
  induction cells generalizing blank with
  | nil => rfl
  | cons c cs ih =>
    have hbyte : c.1 = i → c.2 = buf[i] := by
      rintro rfl
      simpa [hi] using (hcells c List.mem_cons_self).symm
    rw [storeCells_cons, ih (fun d hd => hcells d (List.mem_cons_of_mem c hd)), storeCell_getElem]
    by_cases hc : c.1 = i
    · simp [hc, hbyte hc]
    · simp [hc, Ne.symm hc]

/-- Over the buffer itself nothing changes. -/
theorem CellsOf.storeCells_self {buf : Header} {cells : List Host.Cell} (hcells : CellsOf buf cells) :
    storeCells buf cells = buf := by
  ext i hi
  rw [hcells.storeCells_getElem buf i hi, ite_self]

/-- Over any buffer, cells that leave no offset out give the whole buffer. -/
theorem CellsOf.storeCells_of_cover {buf : Header} {cells : List Host.Cell} (hcells : CellsOf buf cells)
    (hcover : ∀ i < hdrLen, i ∈ cells.map Prod.fst) (blank : Header) :
    storeCells blank cells = buf := by
  ext i hi
  rw [hcells.storeCells_getElem blank i hi, if_pos (hcover i hi)]

theorem cellsOf_byteAt (buf : Header) (off : Nat) (h : off < hdrLen) :
    CellsOf buf [(off, byteAt buf off h)] := by
  simp [CellsOf, byteAt, h]

/-- The cells of a written span: each byte of it, counted from the span's offset. -/
theorem memWrite_eq_zipIdx (off : Nat) (bytes : List Byte) :
    memWrite off bytes = (bytes.zipIdx off).map Prod.swap := by
  induction bytes generalizing off with
  | nil => rfl
  | cons b bs ih => rw [memWrite, ih, List.zipIdx_cons, List.map_cons, Prod.swap]

theorem mem_memWrite {off i : Nat} {bytes : List Byte} {b : Byte} :
    (i, b) ∈ memWrite off bytes ↔ off ≤ i ∧ bytes[i - off]? = some b := by
  rw [memWrite_eq_zipIdx, List.mem_map_swap, List.mk_mem_zipIdx_iff_le_and_getElem?_sub]

/-- A span read from a buffer holds the buffer's own bytes when it is written at the same offset. -/
theorem cellsOf_memWrite_memRead (buf : Header) (off n : Nat) :
    CellsOf buf (memWrite off (memRead buf off n)) := by
  rintro ⟨i, b⟩ hc
  obtain ⟨hle, hb⟩ := mem_memWrite.1 hc
  rw [memRead, List.getElem?_take, List.getElem?_drop, Nat.add_sub_cancel' hle] at hb
  split at hb
  · simpa using hb
  · cases hb

/-- Two bytes of a buffer, written as the value that they read as. -/
theorem wr16_rd16 (buf : Header) (off : Nat) (h : off + 1 < hdrLen) :
    wr16 off (rd16 buf off h) = memWrite off (memRead buf off 2) := by
  obtain ⟨hlow, hhigh⟩ := word16_bytes buf[off + 1] buf[off]
  rw [wr16, rd16_eq_append, hlow, hhigh, memRead_two buf off h]

/-- Four bytes of a buffer, written as the value that they read as. -/
theorem wr32_rd32 (buf : Header) (off : Nat) (h : off + 3 < hdrLen) :
    wr32 off (rd32 buf off h) = memWrite off (memRead buf off 4) := by
  obtain ⟨h0, h1, h2, h3⟩ := word32_bytes buf[off + 3] buf[off + 2] buf[off + 1] buf[off]
  rw [wr32, rd32_eq_append, h0, h1, h2, h3, memRead_four buf off h]

theorem storeCells_wr16_rd16 (buf : Header) (off : Nat) (h : off + 1 < hdrLen) :
    storeCells buf (wr16 off (rd16 buf off h)) = buf := by
  rw [wr16_rd16]
  exact (cellsOf_memWrite_memRead buf off 2).storeCells_self

theorem storeCells_wr32_rd32 (buf : Header) (off : Nat) (h : off + 3 < hdrLen) :
    storeCells buf (wr32 off (rd32 buf off h)) = buf := by
  rw [wr32_rd32]
  exact (cellsOf_memWrite_memRead buf off 4).storeCells_self

/-- Settles O31: the round trips hold at every offset that leaves room for the field. -/
theorem fieldRoundTrip : Obligations.FieldRoundTrip := by
  refine ⟨fun buf v => ⟨?_, ?_⟩, fun buf v => ⟨?_, ?_⟩, fun buf => ⟨?_, ?_, ?_, ?_⟩⟩
  · exact rd16_storeCells_wr16 buf 0 (by decide) v
  · exact rd16_storeCells_wr16 buf 2 (by decide) v
  · exact rd32_storeCells_wr32 buf 4 (by decide) v
  · exact rd32_storeCells_wr32 buf 8 (by decide) v
  · exact storeCells_wr16_rd16 buf 0 (by decide)
  · exact storeCells_wr16_rd16 buf 2 (by decide)
  · exact storeCells_wr32_rd32 buf 4 (by decide)
  · exact storeCells_wr32_rd32 buf 8 (by decide)

/-! The whole buffer. -/

/-- Every field of a buffer and its opaque bytes, each at its own offset, in the order of R30's table. -/
def fieldCells (buf : Header) : List Host.Cell :=
  wr16 offSrc (rd16 buf offSrc) ++ wr16 offDst (rd16 buf offDst)
    ++ wr32 offSeq (rd32 buf offSeq) ++ wr32 offAck (rd32 buf offAck)
    ++ [(offRsv, byteAt buf offRsv)] ++ [(offFlg, byteAt buf offFlg)]
    ++ memWrite offRem (memRead buf offRem remLen)

theorem cellsOf_fieldCells (buf : Header) : CellsOf buf (fieldCells buf) := by
  have hspan := cellsOf_memWrite_memRead buf
  simp only [fieldCells, wr16_rd16, wr32_rd32]
  exact ((((((hspan offSrc 2).append (hspan offDst 2)).append (hspan offSeq 4)).append
    (hspan offAck 4)).append (cellsOf_byteAt buf offRsv (by decide))).append
    (cellsOf_byteAt buf offFlg (by decide))).append (hspan offRem remLen)

/-- The offsets of the fields and the opaque bytes, as the field table has them, are 0 to 19 (R30). -/
theorem fieldCells_map_fst (buf : Header) :
    (fieldCells buf).map Prod.fst = List.range hdrLen := by
  rw [fieldCells, memRead_six buf offRem (by decide)]
  rfl

/-- Settles O33: the pieces are the buffer's own bytes, and their offsets leave none out. -/
theorem fieldsTileTheBuffer : Obligations.FieldsTileTheBuffer := by
  intro blank buf
  exact (cellsOf_fieldCells buf).storeCells_of_cover (by simp [fieldCells_map_fst]) blank

/-- Settles O20: the offsets stand in their order in the list of the twenty writes, and the response they build
has no byte of the old buffer. -/
theorem transformWritesEveryByteOnce : Obligations.TransformWritesEveryByteOnce := by
  intro buf
  constructor
  · rw [responseWrites_eq]
    exact List.Perm.refl _
  · intro blank blank'
    rw [transformInto_eq, transformInto_eq]

/-! DECODE reads offsets 0 to 11 and six bits of offset 13. -/

theorem rd16_congr {buf buf' : Header} {n : Nat}
    (hbytes : ∀ k, (h : k < hdrLen) → k < n → buf[k] = buf'[k]) (off : Nat) (h : off + 1 < hdrLen)
    (hn : off + 1 < n) : rd16 buf off h = rd16 buf' off h := by
  rw [rd16_eq_append, rd16_eq_append, hbytes off (by omega) (by omega), hbytes (off + 1) h hn]

theorem rd32_congr {buf buf' : Header} {n : Nat}
    (hbytes : ∀ k, (h : k < hdrLen) → k < n → buf[k] = buf'[k]) (off : Nat) (h : off + 3 < hdrLen)
    (hn : off + 3 < n) : rd32 buf off h = rd32 buf' off h := by
  rw [rd32_eq_append, rd32_eq_append, hbytes off (by omega) (by omega),
    hbytes (off + 1) (by omega) (by omega), hbytes (off + 2) (by omega) (by omega),
    hbytes (off + 3) h hn]

theorem activeBits_congr {flags flags' : Byte}
    (h : ∀ k, k < 6 → flags.getLsbD k = flags'.getLsbD k) : activeBits flags = activeBits flags' := by
  apply BitVec.eq_of_getLsbD_eq
  intro k hk
  rw [activeBits_getLsbD flags k hk, activeBits_getLsbD flags' k hk, h k hk]

/-- The fields of two headers agree when the bytes that hold them do. -/
theorem decodeHeader_congr {buf buf' : Header}
    (hbytes : ∀ k, (h : k < 20) → k < 12 → buf[k] = buf'[k])
    (hflags : ∀ k, k < 6 → buf[13].getLsbD k = buf'[13].getLsbD k) :
    decodeHeader buf = decodeHeader buf' := by
  have hactive : activeBits (byteAt buf offFlg) = activeBits (byteAt buf' offFlg) :=
    activeBits_congr hflags
  rw [decodeHeader, decodeHeader, rd16_congr hbytes offSrc _ (by decide),
    rd16_congr hbytes offDst _ (by decide), rd32_congr hbytes offSeq _ (by decide),
    rd32_congr hbytes offAck _ (by decide), hactive]

/-- Settles O18: both responses are the fields of the latched request, which agree. -/
theorem decodeDependsOnlyOnTheFieldsItReads : Obligations.DecodeDependsOnlyOnTheFieldsItReads := by
  intro s s' w w' buf buf' hphase hphase' hbytes hflags
  refine ⟨_, _, exec_executing hphase .decode, exec_executing hphase' .decode, ?_⟩
  rw [State.answer_response, State.answer_response, responseOf, responseOf, decodeResponse_toList,
    decodeResponse_toList, decodeHeader_congr hbytes hflags]

/-! Two units of a platform. -/

/-- An operation of one unit leaves every other unit and their number as they were (R101). -/
theorem Platform.onUnit_frame {j k : Nat} {op : State → Answer} {p q : Platform} (hjk : j ≠ k)
    (h : p.onUnit k op = .next q) :
    q.units[j]? = p.units[j]? ∧ q.units.length = p.units.length := by
  obtain ⟨s, t, -, -, hq⟩ := Platform.onUnit_cases h
  rw [hq]
  exact ⟨List.getElem?_set_ne hjk.symm, List.length_set⟩

/-- Settles O44: each operation finds its unit as it was, and two places of the list are set in either order. -/
theorem instancesAreIndependent : Obligations.InstancesAreIndependent := by
  intro p j k f g hjk
  refine ⟨fun q hq => Platform.onUnit_frame hjk hq, fun q r hq hr => ?_⟩
  obtain ⟨s, s', hs, hf, hqunits⟩ := Platform.onUnit_cases hq
  obtain ⟨t, t', ht, hg, hrunits⟩ := Platform.onUnit_cases hr
  have htq : q.units[k]? = some t := (Platform.onUnit_frame hjk.symm hq).1.trans ht
  have hsr : r.units[j]? = some s := (Platform.onUnit_frame hjk hr).1.trans hs
  have hcomm : q.units.set k t' = r.units.set j s' := by
    rw [hqunits, hrunits, List.set_comm _ _ hjk]
  refine ⟨{ units := q.units.set k t' }, Platform.onUnit_eq htq hg, ?_⟩
  rw [hcomm]
  exact Platform.onUnit_eq hsr hf

end Sys2Proof.Machine

/-! # The command word and the statements of a script (R46 to R63)

A word is a command's exactly when it is the command's own encoding. From there on a statement that issues an
encoded command is the response function of that command, read by the host. -/

namespace Sys2Proof

/-! The encoder and the decoder. -/

/-- Decoding an encoded command gives it back (R46, R56). -/
@[simp] theorem decodeWord_encode (i : Instr) : decodeWord (encode i) = .ok i :=
  decodeWord_eq_ok_iff.2 (fieldsOf_encode i)

/-- A command has one word, and only that word decodes to it (R56). -/
theorem decodeWord_eq_ok_iff_eq_encode {w : Word} {i : Instr} : decodeWord w = .ok i ↔ w = encode i := by
  rw [decodeWord_eq_ok_iff, ← fieldsOf_encode]
  exact ⟨fieldsOf_injective, congrArg fieldsOf⟩

/-- Settles O1: the fields of the encoded command are the command's own. -/
theorem decodeOfEncodeIsIdentity : Obligations.DecodeOfEncodeIsIdentity := by
  intro i _
  exact decodeWord_encode i

/-- Settles O2: the word has the fields of the command's encoding, and a word is determined by its fields. -/
theorem encodeOfDecodeIsIdentity : Obligations.EncodeOfDecodeIsIdentity := by
  intro w i h
  exact (decodeWord_eq_ok_iff_eq_encode.1 h).symm

/-! The rows of the opcode table. -/

/-- Every bit of the word is in the mask of DECODE and TRANSFORM (R56). -/
theorem and_fullMask (w : Word) : w &&& 0xFFFF = w :=
  BitVec.and_allOnes

/-- SETFLAGS's mask keeps OP and RSV (R56). -/
theorem and_setFlagsMask_eq_iff (w : Word) :
    w &&& 0x00F3 = 0x0002 ↔ w.extractLsb' 0 2 = 0b10 ∧ w.extractLsb' 4 4 = 0 := by
  constructor
  · intro h
    have hop := congrArg (BitVec.extractLsb' 0 2) h
    have hrsv := congrArg (BitVec.extractLsb' 4 4) h
    rw [BitVec.extractLsb'_and] at hop hrsv
    exact ⟨(BitVec.and_allOnes (x := w.extractLsb' 0 2)).symm.trans hop,
      (BitVec.and_allOnes (x := w.extractLsb' 4 4)).symm.trans hrsv⟩
  · rintro ⟨hop, hrsv⟩
    have hop' := fun k => congrArg (fun x : BitVec 2 => x.getLsbD k) hop
    have hrsv' := fun k => congrArg (fun x : BitVec 4 => x.getLsbD k) hrsv
    simp only [BitVec.getLsbD_extractLsb'] at hop' hrsv'
    apply BitVec.eq_of_getLsbD_eq
    intro k hk
    rw [BitVec.getLsbD_and]
    interval_cases k
    · simpa using hop' 0
    · simpa using hop' 1
    · simp
    · simp
    · simpa using hrsv' 0
    · simpa using hrsv' 1
    · simpa using hrsv' 2
    · simpa using hrsv' 3
    all_goals simp

/-- Settles O3: the two full masks name one word each, and SETFLAGS's mask leaves its operands free. -/
theorem wordsMatchTheirOpcodeRow : Obligations.WordsMatchTheirOpcodeRow := by
  intro w
  refine ⟨?_, ?_, fun f a s => ?_⟩
  · rw [and_fullMask]
    exact decodeWord_eq_ok_iff_eq_encode
  · rw [and_fullMask]
    exact decodeWord_eq_ok_iff_eq_encode
  · rw [decodeWord_eq_setFlags_iff, and_setFlagsMask_eq_iff, eq_comm (a := f), eq_comm (a := s),
      eq_comm (a := a), and_comm (a := w.getLsbD 2 = a)]

/-- Settles O7: the examples, each evaluated by the decoder or the encoder. -/
theorem encodingExamplesDecode : Obligations.EncodingExamplesDecode := by
  unfold Obligations.EncodingExamplesDecode
  decide

/-! Legal and illegal words. -/

/-- The three kinds of legal word: OP says which command it is, and the bits that the command leaves unused
are zero (R48, R51). -/
theorem decodeWord_ok_cases {w : Word} {i : Instr} (h : decodeWord w = .ok i) :
    (w.extractLsb' 0 2 = 0b00 ∧ w.extractLsb' 2 14 = 0 ∧ i = .decode) ∨
      (w.extractLsb' 0 2 = 0b01 ∧ w.extractLsb' 2 14 = 0 ∧ i = .transform) ∨
      (w.extractLsb' 0 2 = 0b10 ∧ w.extractLsb' 4 4 = 0 ∧ ∃ f a s, i = .setFlags f a s) := by
  cases i with
  | decode =>
    obtain ⟨hop, hzero⟩ := (decodeWord_eq_decode_iff w).1 h
    exact .inl ⟨hop, hzero, rfl⟩
  | transform =>
    obtain ⟨hop, hzero⟩ := (decodeWord_eq_transform_iff w).1 h
    exact .inr (.inl ⟨hop, hzero, rfl⟩)
  | setFlags f a s =>
    obtain ⟨⟨hop, hrsv⟩, -⟩ := (decodeWord_eq_setFlags_iff w f a s).1 h
    exact .inr (.inr ⟨hop, hrsv, f, a, s, rfl⟩)

/-- No command puts anything into RSV (R51). -/
theorem Instr.fields_rsv (i : Instr) : i.fields.rsv = 0 := by cases i <;> rfl

/-- RSV is zero in every legal word (R51). -/
theorem reserved_eq_zero_of_decodeWord_ok {w : Word} {i : Instr} (h : decodeWord w = .ok i) :
    w.extractLsb' 4 4 = 0 :=
  (congrArg CommandFields.rsv (decodeWord_eq_ok_iff.1 h)).trans i.fields_rsv

end Sys2Proof

namespace Sys2Proof.Machine

/-- A word that decodes to no command is answered with ILLEGAL_COMMAND (R57, R90). -/
theorem step_of_not_legal {s : State} {w : Word} {req : List Byte} (hphase : s.phase = .executing w req)
    (hw : ∀ i, decodeWord w ≠ .ok i) : step s = .next (s.raise .illegalCommand) := by
  rw [step_executing hphase, wordResponse]
  cases hd : decodeWord w with
  | ok i => exact absurd hd (hw i)
  | error e => rw [State.answer_error]

/-- Settles O4: in each kind of legal word RSV is zero, and with OP 0 or 1 so is all above OP. -/
theorem reservedBitsMakeTheWordIllegal : Obligations.ReservedBitsMakeTheWordIllegal := by
  intro s w req hphase hset
  refine step_of_not_legal hphase fun i hi => ?_
  obtain hrsv | ⟨hop, hunused⟩ := hset
  · exact hrsv (reserved_eq_zero_of_decodeWord_ok hi)
  · obtain ⟨-, hzero, -⟩ | ⟨-, hzero, -⟩ | ⟨hop2, -⟩ := decodeWord_ok_cases hi
    · exact hunused hzero
    · exact hunused hzero
    · simp [hop2] at hop

/-- Settles O5: the three kinds of legal word, none of which has OP = 3. -/
theorem operationFieldSelectsTheCommand : Obligations.OperationFieldSelectsTheCommand := by
  constructor
  · intro w i hi
    obtain ⟨hop, -, rfl⟩ | ⟨hop, -, rfl⟩ | ⟨hop, -, hsf⟩ := decodeWord_ok_cases hi
    · exact .inl ⟨hop, rfl⟩
    · exact .inr (.inl ⟨hop, rfl⟩)
    · exact .inr (.inr ⟨hop, hsf⟩)
  · intro s w req hphase hop3
    refine step_of_not_legal hphase fun i hi => ?_
    obtain ⟨hop, -⟩ | ⟨hop, -⟩ | ⟨hop, -⟩ := decodeWord_ok_cases hi <;>
      exact absurd (hop3.symm.trans hop) (by decide)

/-- Settles O11: an answered step shows the code of its response's status, and no status has the code 0b11. -/
theorem statusCodeThreeIsNeverReturned : Obligations.StatusCodeThreeIsNeverReturned := by
  refine ⟨rfl, rfl, rfl, fun s w req hphase => ?_⟩
  refine ⟨_, _, step_executing hphase, State.answer_response _ s, State.answer_status _ s, ?_⟩
  rw [State.answer_status]
  exact Status.code_ne_three _

/-! A statement that issues an encoded command. -/

/-- The response to an encoded command is that of its response function. -/
theorem wordResponse_encode (blank : Header) (i : Instr) (req : List Byte) :
    wordResponse blank (encode i) req = responseOf blank i req := by
  rw [wordResponse, decodeWord_encode]

/-- TRANSFORM on a buffer the host holds: the host reads the reference's response to its bytes (R59, R60). -/
theorem System.commandOn_transform {sys : System} {b : BufName} {bytes : List Byte}
    (hidle : sys.block.notExecuting) (hb : Store.get b sys.host.buffers = some bytes) :
    ∃ u, sys.commandOn (encode .transform) b = .next u ∧ u.block.notExecuting ∧
      u.host = sys.host.collect (Reference.transform bytes) := by
  obtain ⟨r, hr, hrun⟩ := System.command_eq (sys := sys)
    (ports := fun s => (s.writeCmd (encode .transform)).writeReq bytes) hidle
  rw [State.writeReq_cmd, State.writeCmd_cmd, State.writeReq_req, wordResponse_encode, responseOf,
    transformResponse_eq_reference] at hr
  subst hr
  rw [System.commandOn, System.buffer_eq hb, andThen_next, hrun]
  exact ⟨_, rfl, State.answer_not_executing _ _, rfl⟩

/-- SETFLAGS with its flags operand read: the word is the command's, REQ stays on its port, and the host reads
the edited byte (R59, R83). -/
theorem System.command_setFlags {sys : System} (hidle : sys.block.notExecuting) (f : Byte) (a s : Bool) :
    ∃ u, sys.command (State.writeCmd (encode (.setFlags f a s))) = .next u ∧ u.block.notExecuting ∧
      u.host = sys.host.collect (.ok (.flags (editFlags f a s))) ∧
      u.block.cmd = encode (.setFlags f a s) ∧ u.block.req = sys.block.req := by
  obtain ⟨r, hr, hrun⟩ := System.command_eq (sys := sys)
    (ports := State.writeCmd (encode (.setFlags f a s))) hidle
  rw [State.writeCmd_cmd, wordResponse_encode, responseOf, setFlagsResponse] at hr
  subst hr
  exact ⟨_, hrun, State.answer_not_executing _ _, rfl, State.answer_cmd _ _, State.answer_req _ _⟩

/-! What the host's own operations leave of it. -/

@[simp] theorem HostState.collect_ok_faultLog (r : Result) (h : HostState) :
    (h.collect (.ok r)).faultLog = h.faultLog := rfl

@[simp] theorem HostState.collect_error_faultLog (c : Cause) (h : HostState) :
    (h.collect (.error c)).faultLog = h.faultLog ++ [c] := rfl

@[simp] theorem System.putBuffer_index (b : BufName) (bytes : List Byte) (sys : System) :
    (sys.putBuffer b bytes).host.index = sys.host.index := rfl

@[simp] theorem System.putBuffer_vars (b : BufName) (bytes : List Byte) (sys : System) :
    (sys.putBuffer b bytes).host.vars = sys.host.vars := rfl

@[simp] theorem System.advance_block (sys : System) : sys.advance.block = sys.block := rfl

@[simp] theorem System.advance_index (sys : System) :
    sys.advance.host.index = sys.host.index + 1 := rfl

@[simp] theorem System.advance_buffers (sys : System) :
    sys.advance.host.buffers = sys.host.buffers := rfl

@[simp] theorem System.advance_vars (sys : System) : sys.advance.host.vars = sys.host.vars := rfl

@[simp] theorem System.advance_view (sys : System) : sys.advance.host.view = sys.host.view := rfl

@[simp] theorem System.advance_faultLog (sys : System) :
    sys.advance.host.faultLog = sys.host.faultLog := rfl

/-! The TRANSFORM statement. -/

/-- RESP goes into the destination. -/
theorem System.storeResp_of_header {sys : System} {resp : Header} (dst : BufName)
    (h : sys.host.view = some (.ok (.header resp))) :
    sys.storeResp dst = sys.putBuffer dst resp.toList := by
  simp [System.storeResp, h]

/-- After an error there is no RESP to store. -/
theorem System.storeResp_of_error {sys : System} {c : Cause} (dst : BufName)
    (h : sys.host.view = some (.error c)) : sys.storeResp dst = sys := by
  simp [System.storeResp, h]

/-- Settles O46: twenty bytes are answered with a header, which is stored; any other length with an error, after
which nothing is. -/
theorem transformStatementStoresResp : Obligations.TransformStatementStoresResp := by
  intro sys b dst bytes hidle hb
  obtain ⟨u, hu, hwaits, hhost⟩ := System.commandOn_transform hidle hb
  have hview : u.host.view = some (Reference.transform bytes) := by rw [hhost, HostState.collect_view]
  have hrun : runStmt (.act (.transform b dst)) sys = .next (u.storeResp dst).advance := by
    rw [runStmt, runAct, hu, andThen_next, andThen_next]
  obtain ⟨buf, rfl⟩ | hlen := header_or_length_ne bytes
  · rw [Reference.transform_toList buf] at hview hhost ⊢
    rw [System.storeResp_of_header dst hview] at hrun
    refine ⟨_, hrun, hwaits, by simp [hhost], hview, ?_, fun h => absurd (Vector.length_toList ..) h⟩
    intro resp hresp
    cases hresp
    refine ⟨Store.get_put_same _ _ _, fun c hc => ?_⟩
    rw [System.advance_buffers, System.putBuffer_buffers, Store.get_put_other hc, hhost,
      HostState.collect_buffers]
  · rw [Reference.transform_of_length_ne hlen] at hview hhost ⊢
    rw [System.storeResp_of_error dst hview] at hrun
    exact ⟨_, hrun, hwaits, by simp [hhost], hview, nofun, fun _ => by simp [hhost]⟩

/-! The pseudo-instruction SETFLAGS_WB: its three statements, and the variable between them. -/

/-- A host variable assigned. -/
def System.putVar (x : VarName) (v : Byte) (sys : System) : System :=
  { sys with host := { sys.host with vars := sys.host.vars.put x v } }

@[simp] theorem System.putVar_block (x : VarName) (v : Byte) (sys : System) :
    (sys.putVar x v).block = sys.block := rfl

@[simp] theorem System.putVar_vars (x : VarName) (v : Byte) (sys : System) :
    (sys.putVar x v).host.vars = sys.host.vars.put x v := rfl

@[simp] theorem System.putVar_buffers (x : VarName) (v : Byte) (sys : System) :
    (sys.putVar x v).host.buffers = sys.host.buffers := rfl

@[simp] theorem System.putVar_index (x : VarName) (v : Byte) (sys : System) :
    (sys.putVar x v).host.index = sys.host.index := rfl

@[simp] theorem System.putVar_faultLog (x : VarName) (v : Byte) (sys : System) :
    (sys.putVar x v).host.faultLog = sys.host.faultLog := rfl

/-- `f := <name>[<i>]` assigns the byte of the buffer to the variable (R62). -/
theorem runAct_readByte {sys : System} {b : BufName} {i : Nat} {bytes : List Byte} {v : Byte}
    (x : VarName) (hb : Store.get b sys.host.buffers = some bytes) (hv : bytes[i]? = some v) :
    runAct (.readByte x b i) sys = .next (sys.putVar x v) := by
  have hread : sys.readByte b i = .next v := by simp [System.readByte, System.buffer_eq hb, hv]
  rw [runAct, hread, andThen_next, System.putVar]

/-- SETFLAGS of a host variable is the command of the byte that the variable holds (R59). -/
theorem runAct_setFlags_var {sys : System} {x : VarName} {f : Byte} (a s : Bool)
    (hx : Store.get x sys.host.vars = some f) :
    runAct (.setFlags (.var x) a s) sys = sys.command (State.writeCmd (encode (.setFlags f a s))) := by
  have hvalue : sys.value (.var x) = .next (f, sys) := by simp [System.value, hx]
  rw [runAct, hvalue, andThen_next]

/-- `<name>[<i>] := FLAGS_OUT` after SETFLAGS writes its result (R60, R62). -/
theorem runAct_writeByte_flagsOut {sys : System} {b : BufName} {i : Nat} {bytes : List Byte} {f : Byte}
    (hb : Store.get b sys.host.buffers = some bytes) (hi : i < bytes.length)
    (hview : sys.host.view = some (.ok (.flags f))) :
    runAct (.writeByte b i .flagsOut) sys = .next (sys.putBuffer b (bytes.set i f)) := by
  have hvalue : sys.value .flagsOut = .next (f, sys) :=
    System.readResult_carried (name := Result.flagsOut?) hview rfl
  rw [runAct, hvalue, andThen_next, System.writeByte, System.buffer_eq hb, andThen_next, if_pos hi]

/-- Settles O47: the three statements of R61, of which only the last writes a buffer. -/
theorem setFlagsWbChangesOffsetThirteenOnly : Obligations.SetFlagsWbChangesOffsetThirteenOnly := by
  intro sys b a s bytes flags hidle hb hflags
  have hlen : writeBackOffset < bytes.length := (List.getElem?_eq_some_iff.1 hflags).1
  have hvar : Store.get writeBackVar (sys.putVar writeBackVar flags).host.vars = some flags :=
    Store.get_put_same _ _ _
  obtain ⟨u, hu, hwaits, hhost, hcmd, hreq⟩ :=
    System.command_setFlags (sys := sys.putVar writeBackVar flags) hidle flags a s
  have hview : u.host.view = some (.ok (.flags (editFlags flags a s))) := by simp [hhost]
  have hbuffers : u.host.buffers = sys.host.buffers := by simp [hhost]
  have hrun : runStmt (.setFlagsWb b a s) sys =
      .next (u.putBuffer b (bytes.set writeBackOffset (editFlags flags a s))).advance := by
    simp only [runStmt, setFlagsWbActs, runActs, runAct_readByte writeBackVar hb hflags,
      runAct_setFlags_var a s hvar, hu, runAct_writeByte_flagsOut (hbuffers ▸ hb) hlen hview, andThen_next]
  refine ⟨_, hrun, hwaits, Store.get_put_same _ _ _, fun c hc => ?_, hview, ?_, hcmd, hreq, ?_, ?_⟩
  · rw [System.advance_buffers, System.putBuffer_buffers, Store.get_put_other hc, hbuffers]
  · rwa [System.advance_vars, System.putBuffer_vars, hhost, HostState.collect_vars]
  · simp [hhost]
  · simp [hhost]

/-! Branches. -/

/-- A branch to a label of the script moves the index and does nothing else (R62). -/
theorem System.branch_eq {sys : System} {l : Label} {i : Nat}
    (h : labelIndex l sys.host.script = some i) :
    sys.branch l = .next { sys with host := { sys.host with index := i } } := by
  simp [System.branch, h]

/-- After an OK response the script goes on. -/
theorem runStmt_ifNotOkGoto_of_ok {sys : System} {r : Result} (l : Label)
    (h : sys.host.view = some (.ok r)) : runStmt (.ifNotOkGoto l) sys = .next sys.advance := by
  rw [runStmt, System.readStatus_some h, if_pos ((Response.status_code_eq_ok _).2 rfl)]

/-- After an error the branch is taken. -/
theorem runStmt_ifNotOkGoto_of_error {sys : System} {c : Cause} (l : Label)
    (h : sys.host.view = some (.error c)) : runStmt (.ifNotOkGoto l) sys = sys.branch l := by
  rw [runStmt, System.readStatus_some h,
    if_neg (mt (Response.status_code_eq_ok _).1 (Response.error_status_ne_ok c))]

/-- Before any response the branch is taken or not, by a read that is counted. -/
theorem runStmt_ifNotOkGoto_of_none {sys : System} (l : Label) (h : sys.host.view = none) :
    runStmt (.ifNotOkGoto l) sys = .next sys.countRead.advance ∨
      runStmt (.ifNotOkGoto l) sys = sys.countRead.branch l := by
  have hread : sys.readStatus.2 = sys.countRead := by simp [System.readStatus, h]
  rw [runStmt, hread]
  split
  · exact .inl rfl
  · exact .inr rfl

/-- Settles O49: each branch moves the index as the host's view of STATUS says. -/
theorem branchesFollowTheStatus : Obligations.BranchesFollowTheStatus := by
  intro sys l i hl
  refine ⟨fun r hr => runStmt_ifNotOkGoto_of_ok l hr, fun c hc => ?_, fun hnone => ?_,
    System.branch_eq hl, ⟨_, rfl, rfl, ?_⟩⟩
  · rw [runStmt_ifNotOkGoto_of_error l hc, System.branch_eq hl]
  · obtain hgo | htaken := runStmt_ifNotOkGoto_of_none l hnone
    · exact ⟨_, hgo, .inl rfl, rfl, rfl, rfl⟩
    · rw [System.branch_eq (sys := sys.countRead) hl] at htaken
      exact ⟨_, htaken, .inr rfl, rfl, rfl, rfl⟩
  · simp [System.step]

end Sys2Proof.Machine

/-! # DECODE (R64 to R68)

The two halves of a DECODE: the length check, and for a request that passes it the fields by their bytes. The
listing of ACTIVE is a filter of the six names, so its order and its bound are those of the names. -/

namespace Sys2Proof.Machine

/-! The two outcomes of a DECODE. -/

/-- DECODE of a header answers its fields. -/
theorem exec_decode_of_header {s : State} {w : Word} {buf : Header}
    (h : s.phase = .executing w buf.toList) :
    exec .decode s = .next (s.succeed (decodeHeader buf)) := by
  rw [exec_executing h, responseOf, decodeResponse_toList, State.answer_ok]

/-- DECODE of any other request raises the length error. -/
theorem exec_decode_of_length_ne {s : State} {w : Word} {req : List Byte}
    (h : s.phase = .executing w req) (hlen : req.length ≠ hdrLen) :
    exec .decode s = .next (s.raise .malformedHeader) := by
  rw [exec_executing h, responseOf, decodeResponse_of_length_ne hlen, State.answer_error]

/-! The fields by their bytes, and a header for every choice of them. -/

/-- The fields of a header as bytes of it, the highest offset first (R65). -/
theorem decodeHeader_eq (buf : Header) :
    decodeHeader buf = .decoded
      (Reference.word16 buf[1] buf[0]) (Reference.word16 buf[3] buf[2])
      (Reference.word32 buf[7] buf[6] buf[5] buf[4])
      (Reference.word32 buf[11] buf[10] buf[9] buf[8])
      (buf[13].extractLsb' 0 6) := by
  simp only [decodeHeader, rd16_eq_append, rd32_eq_append]
  rfl

/-- A header with the given fields, its opaque bytes and the two unnamed flag bits zero. -/
def headerWithFields (sp dp : BitVec 16) (sq ak : BitVec 32) (ac : BitVec 6) : Header :=
  #v[sp.extractLsb' 0 8, sp.extractLsb' 8 8,
    dp.extractLsb' 0 8, dp.extractLsb' 8 8,
    sq.extractLsb' 0 8, sq.extractLsb' 8 8, sq.extractLsb' 16 8, sq.extractLsb' 24 8,
    ak.extractLsb' 0 8, ak.extractLsb' 8 8, ak.extractLsb' 16 8, ak.extractLsb' 24 8,
    0, ac.setWidth 8, 0, 0, 0, 0, 0, 0]

theorem activeBits_setWidth (ac : BitVec 6) : activeBits (ac.setWidth 8) = ac := by
  rw [activeBits, ← BitVec.setWidth_eq_extractLsb' (by decide),
    BitVec.setWidth_setWidth_of_le _ (by decide), BitVec.setWidth_eq]

theorem decodeHeader_headerWithFields (sp dp : BitVec 16) (sq ak : BitVec 32) (ac : BitVec 6) :
    decodeHeader (headerWithFields sp dp sq ak ac) = .decoded sp dp sq ak ac := by
  rw [decodeHeader_eq, Result.decoded.injEq]
  exact ⟨word16_extract sp, word16_extract dp, word32_extract sq, word32_extract ak,
    activeBits_setWidth ac⟩

/-- Settles O15: the fields by their bytes, and `headerWithFields` for the values. -/
theorem decodeReturnsTheFields : Obligations.DecodeReturnsTheFields := by
  refine ⟨fun s w buf h => ?_, fun sp dp sq ak ac => ?_⟩
  · rw [exec_decode_of_header h, decodeHeader_eq]
  · exact ⟨headerWithFields sp dp sq ak ac, decodeHeader_headerWithFields sp dp sq ak ac⟩

/-- Settles O16: both requests raise the same error, and nothing of the latched one survives it. -/
theorem decodeRejectsEveryOtherLength : Obligations.DecodeRejectsEveryOtherLength := by
  intro s w req req' h hlen hlen'
  refine ⟨s.raise .malformedHeader, exec_decode_of_length_ne h hlen, rfl,
    State.raise_response _ s, rfl, ?_⟩
  rw [exec_decode_of_length_ne rfl hlen', State.raise_of_phase]

/-! The listing of ACTIVE. -/

/-- The six names in descending bit order (R32). -/
def flagNames : List FlagName := [.URG, .ACK, .PSH, .RST, .SYN, .FIN]

theorem mem_flagNames (n : FlagName) : n ∈ flagNames := by
  cases n <;> decide

theorem flagNames_pairwise : flagNames.Pairwise (fun m n => n.bit < m.bit) := by decide

theorem FlagName.bit_lt_six (n : FlagName) : n.bit < 6 := by
  cases n <;> decide

/-- The pass over the bits keeps the names whose bit is set, in the order of the pass (R66). -/
theorem activeList_eq_filter (active : BitVec 6) :
    activeList active = flagNames.filter (fun n => active.getLsbD n.bit) := by
  have hnames : flagNames = ([5, 4, 3, 2, 1, 0] : List (Fin 6)).map flagNameOf := by decide
  rw [hnames, List.filter_map, List.map_eq_flatMap, List.flatMap_eq_foldl, List.foldl_filter]
  simp only [activeList, Function.comp_apply, flagNameOf_bit]

/-- A name is listed exactly when its bit is set. -/
theorem mem_activeList {active : BitVec 6} {n : FlagName} :
    n ∈ activeList active ↔ active.getLsbD n.bit = true := by
  rw [activeList_eq_filter, List.mem_filter, and_iff_right (mem_flagNames n)]

theorem activeList_pairwise (active : BitVec 6) :
    (activeList active).Pairwise (fun m n => n.bit < m.bit) := by
  rw [activeList_eq_filter]
  exact flagNames_pairwise.filter _

theorem activeList_length_le (active : BitVec 6) : (activeList active).length ≤ 6 := by
  rw [activeList_eq_filter]
  exact List.length_filter_le _ flagNames

/-- No repeats, since a name's bit is not below itself (R67). -/
theorem activeList_nodup (active : BitVec 6) : (activeList active).Nodup :=
  (activeList_pairwise active).imp fun hlt heq => hlt.ne' (congrArg FlagName.bit heq)

/-- Settles O17: the listing filters the six names, whose order it keeps. -/
theorem activeListDescends : Obligations.ActiveListDescends := by
  refine ⟨fun active => ⟨activeList_eq_filter active, activeList_nodup active,
    activeList_length_le active, activeList_pairwise active⟩, fun flags n => ?_⟩
  rw [mem_activeList, activeBits_getLsbD flags n.bit n.bit_lt_six]

end Sys2Proof.Machine

/-! # TRANSFORM (R71 to R80, R82)

The two outcomes of a TRANSFORM, and then what its response holds, one lemma per row of R72's byte map and one
per field. The statements are read off from these rows. -/

namespace Sys2Proof.Machine

/-! The two outcomes of a TRANSFORM. -/

/-- TRANSFORM of a header answers the response built over RESP. -/
theorem exec_transform_of_header {s : State} {w : Word} {buf : Header}
    (h : s.phase = .executing w buf.toList) :
    exec .transform s = .next (s.succeed (.header (transformInto s.resp buf))) := by
  rw [exec_executing h, responseOf, transformResponse_toList, State.answer_ok]

/-- TRANSFORM of any other request raises the length error. -/
theorem exec_transform_of_length_ne {s : State} {w : Word} {req : List Byte}
    (h : s.phase = .executing w req) (hlen : req.length ≠ hdrLen) :
    exec .transform s = .next (s.raise .malformedHeader) := by
  rw [exec_executing h, responseOf, transformResponse_of_length_ne s.resp hlen, State.answer_error]

/-- Settles O26: the length check passes exactly on headers, and nothing of the latched request survives the
error. -/
theorem transformFailsOnTheLengthOnly : Obligations.TransformFailsOnTheLengthOnly := by
  intro s w req req' h
  constructor
  · intro hlen
    obtain ⟨buf, rfl⟩ | hne := header_or_length_ne req
    · exact ⟨_, exec_transform_of_header h⟩
    · exact absurd hlen hne
  · intro hlen hlen'
    refine ⟨s.raise .malformedHeader, exec_transform_of_length_ne h hlen, rfl,
      State.raise_response _ s, rfl, ?_⟩
    rw [exec_transform_of_length_ne rfl hlen', State.raise_of_phase]

/-! The scramble and the flags byte. -/

theorem scramble_of_set {sp : BitVec 16} (h : sp.getLsbD portTestBit = true) :
    scramble sp = sp ^^^ portXor := if_pos h

theorem scramble_of_clear {sp : BitVec 16} (h : sp.getLsbD portTestBit = false) :
    scramble sp = sp := if_neg (ne_true_of_eq_false h)

/-- The mask leaves the bit it is selected by alone. -/
theorem scramble_portTestBit (sp : BitVec 16) :
    (scramble sp).getLsbD portTestBit = sp.getLsbD portTestBit := by
  cases h : sp.getLsbD portTestBit with
  | false => rw [scramble_of_clear h, h]
  | true => rw [scramble_of_set h, BitVec.getLsbD_xor, h]; rfl

/-- The second scramble takes the branch of the first, since the tested bit is kept. -/
theorem scramble_scramble (sp : BitVec 16) : scramble (scramble sp) = sp := by
  have hbit := scramble_portTestBit sp
  cases h : sp.getLsbD portTestBit with
  | false => rw [scramble_of_clear (hbit.trans h), scramble_of_clear h]
  | true => rw [scramble_of_set (hbit.trans h), scramble_of_set h, BitVec.xor_assoc, BitVec.xor_self,
      BitVec.xor_zero]

/-- The tested bit is the most significant one of a port. -/
theorem portTestBit_iff_le (sp : BitVec 16) : sp.getLsbD portTestBit = true ↔ 32768 ≤ sp.toNat := by
  have hmsb : sp.getLsbD portTestBit = decide (32768 ≤ sp.toNat) := BitVec.msb_eq_decide sp
  rw [hmsb, decide_eq_true_iff]

theorem replyFlags_of_syn {flags : Byte} (h : flags.getLsbD synBit = true) :
    replyFlags flags = flags ||| synAckOr := if_pos h

theorem replyFlags_of_not_syn {flags : Byte} (h : flags.getLsbD synBit = false) :
    replyFlags flags = flags := if_neg (ne_true_of_eq_false h)

/-- SYN+ACK stays SYN+ACK. -/
theorem replyFlags_replyFlags (flags : Byte) : replyFlags (replyFlags flags) = replyFlags flags := by
  cases h : flags.getLsbD synBit with
  | false => rw [replyFlags_of_not_syn h, replyFlags_of_not_syn h]
  | true =>
    have hsyn : (replyFlags flags).getLsbD synBit = true :=
      (replyFlags_getLsbD flags synBit (by decide)).trans h
    rw [replyFlags_of_syn hsyn, replyFlags_of_syn h, BitVec.or_assoc, BitVec.or_self]

/-! The response, by the rows of R72's table. -/

section
variable (blank buf : Header)

/-- Offsets 0 and 1 receive the destination port (R75). -/
theorem transformInto_sourceBytes :
    (transformInto blank buf)[0] = buf[2] ∧ (transformInto blank buf)[1] = buf[3] := by
  rw [transformInto_eq]
  exact ⟨rfl, rfl⟩

/-- Offsets 2 and 3 receive the scrambled source port (R74, R75). -/
theorem transformInto_destinationBytes :
    (transformInto blank buf)[2] = (scramble (rd16 buf 0)).extractLsb' 0 8 ∧
      (transformInto blank buf)[3] = (scramble (rd16 buf 0)).extractLsb' 8 8 := by
  rw [transformInto_eq]
  exact ⟨rfl, rfl⟩

/-- Offsets 4 to 7 receive the next sequence number (R76). -/
theorem transformInto_sequenceBytes :
    (transformInto blank buf)[4] = (rd32 buf 4 + 1).extractLsb' 0 8 ∧
      (transformInto blank buf)[5] = (rd32 buf 4 + 1).extractLsb' 8 8 ∧
      (transformInto blank buf)[6] = (rd32 buf 4 + 1).extractLsb' 16 8 ∧
      (transformInto blank buf)[7] = (rd32 buf 4 + 1).extractLsb' 24 8 := by
  rw [transformInto_eq]
  exact ⟨rfl, rfl, rfl, rfl⟩

/-- Offsets 8 to 11 receive the sequence number as it was (R77). -/
theorem transformInto_acknowledgementBytes :
    (transformInto blank buf)[8] = buf[4] ∧ (transformInto blank buf)[9] = buf[5] ∧
      (transformInto blank buf)[10] = buf[6] ∧ (transformInto blank buf)[11] = buf[7] := by
  rw [transformInto_eq]
  exact ⟨rfl, rfl, rfl, rfl⟩

/-- Offset 13 receives the answered flags (R78). -/
theorem transformInto_flagsByte : (transformInto blank buf)[13] = replyFlags buf[13] := by
  rw [transformInto_eq]
  rfl

/-- Offset 12 and offsets 14 to 19 receive their own bytes (R79). -/
theorem transformInto_opaqueByte (k : Nat) (h : k < hdrLen) (hk : k = 12 ∨ 14 ≤ k) :
    (transformInto blank buf)[k] = buf[k] := by
  rw [transformInto_eq]
  obtain rfl | hrem := hk
  · rfl
  · have : k < 20 := h
    interval_cases k <;> rfl

/-! The response's fields. -/

theorem rd16_transformInto_source : rd16 (transformInto blank buf) 0 = rd16 buf 2 := by
  obtain ⟨h0, h1⟩ := transformInto_sourceBytes blank buf
  simp only [rd16_eq_append, h0, h1]

theorem rd16_transformInto_destination :
    rd16 (transformInto blank buf) 2 = scramble (rd16 buf 0) := by
  obtain ⟨h2, h3⟩ := transformInto_destinationBytes blank buf
  rw [rd16_eq_append (transformInto blank buf), h2, h3, word16_extract]

theorem rd32_transformInto_sequence : rd32 (transformInto blank buf) 4 = rd32 buf 4 + 1 := by
  obtain ⟨h4, h5, h6, h7⟩ := transformInto_sequenceBytes blank buf
  rw [rd32_eq_append (transformInto blank buf), h4, h5, h6, h7, word32_extract]

theorem rd32_transformInto_acknowledgement : rd32 (transformInto blank buf) 8 = rd32 buf 4 := by
  obtain ⟨h8, h9, h10, h11⟩ := transformInto_acknowledgementBytes blank buf
  simp only [rd32_eq_append, h8, h9, h10, h11]

end

/-- The response is the same over any two buffers and from any two requests that agree outside the
acknowledgement number (R72). -/
theorem transformInto_congr {buf buf' : Header}
    (hbytes : ∀ k, (h : k < 20) → (k < 8 ∨ 12 ≤ k) → buf[k] = buf'[k]) (blank blank' : Header) :
    transformInto blank buf = transformInto blank' buf' := by
  have hlow : ∀ k, (h : k < hdrLen) → k < 8 → buf[k] = buf'[k] := fun k h hk => hbytes k h (.inl hk)
  rw [transformInto_eq, transformInto_eq, rd16_congr hlow 0 _ (by decide),
    rd32_congr hlow 4 _ (by decide)]
  simp (disch := decide) only [hbytes]

/-! The statements. -/

/-- Settles O19: the rows of the response, the two scrambled bytes by their masks. -/
theorem transformByteMap : Obligations.TransformByteMap := by
  intro s w buf h
  refine ⟨transformInto s.resp buf, exec_transform_of_header h, ?_⟩
  obtain ⟨h0, h1⟩ := transformInto_sourceBytes s.resp buf
  obtain ⟨h2, h3⟩ := transformInto_destinationBytes s.resp buf
  obtain ⟨h8, h9, h10, h11⟩ := transformInto_acknowledgementBytes s.resp buf
  have hseq := rd32_transformInto_sequence s.resp buf
  rw [rd16_eq_append, scramble_word16_low] at h2
  rw [rd16_eq_append, scramble_word16_high] at h3
  rw [rd32_eq_append, rd32_eq_append] at hseq
  have hopaque := transformInto_opaqueByte s.resp buf
  exact ⟨h0, h1, h2, h3, hseq, h8, h9, h10, h11, hopaque 12 (by decide) (by decide),
    transformInto_flagsByte s.resp buf,
    hopaque 14 (by decide) (by decide), hopaque 15 (by decide) (by decide),
    hopaque 16 (by decide) (by decide), hopaque 17 (by decide) (by decide),
    hopaque 18 (by decide) (by decide), hopaque 19 (by decide) (by decide)⟩

/-- Settles O21: the tested bit is kept, so the scramble is its own inverse. -/
theorem scrambleTestsBitFifteen : Obligations.ScrambleTestsBitFifteen := by
  refine ⟨fun sp => ⟨portTestBit_iff_le sp, scramble_of_set, scramble_of_clear, scramble_portTestBit sp,
    scramble_scramble sp⟩, fun s w buf h => ?_⟩
  exact ⟨_, exec_transform_of_header h, rd16_transformInto_destination s.resp buf⟩

/-- Settles O22: the port bytes of the response, and the two fields they make. -/
theorem transformSwapsThePorts : Obligations.TransformSwapsThePorts := by
  intro s w buf h
  obtain ⟨h0, h1⟩ := transformInto_sourceBytes s.resp buf
  obtain ⟨h2, h3⟩ := transformInto_destinationBytes s.resp buf
  exact ⟨_, exec_transform_of_header h, h0, h1, h2, h3, rd16_transformInto_source s.resp buf,
    rd16_transformInto_destination s.resp buf⟩

/-- Settles O23: the sequence number is the old one plus one as a 32-bit sum, and the acknowledgement number
is the old one. -/
theorem transformSequenceNumbers : Obligations.TransformSequenceNumbers := by
  intro s w buf h
  obtain ⟨h4, h5, h6, h7⟩ := transformInto_sequenceBytes s.resp buf
  obtain ⟨h8, h9, h10, h11⟩ := transformInto_acknowledgementBytes s.resp buf
  have hseq := rd32_transformInto_sequence s.resp buf
  have hack := rd32_transformInto_acknowledgement s.resp buf
  refine ⟨_, exec_transform_of_header h, ?_, h4, h5, h6, h7, ?_, h8, h9, h10, h11, hack, ?_,
    rd16_transformInto_destination s.resp buf⟩
  · rw [hseq, BitVec.toNat_add]
    rfl
  · intro hmax
    rw [hseq, hmax]
    rfl
  · rw [hseq, hack]

/-- Settles O24: offset 13 holds the answered flags, whose bits other than bit 4 are the request's. -/
theorem transformFlagsByte : Obligations.TransformFlagsByte := by
  intro s w buf h
  refine ⟨_, exec_transform_of_header h, ?_⟩
  rw [transformInto_flagsByte]
  refine ⟨replyFlags_of_syn, replyFlags_of_not_syn, fun k hk hne => ?_⟩
  rw [replyFlags_getLsbD _ k hk, if_neg hne]

/-- Settles O25: the opaque rows of the response. -/
theorem transformCopiesTheOpaqueBytes : Obligations.TransformCopiesTheOpaqueBytes := by
  intro s w buf h
  exact ⟨_, exec_transform_of_header h, transformInto_opaqueByte s.resp buf⟩

/-- Settles O27: the two responses are built from the same bytes. -/
theorem transformIgnoresTheAcknowledgement : Obligations.TransformIgnoresTheAcknowledgement := by
  intro s s' w w' buf buf' h h' hbytes
  refine ⟨_, _, exec_transform_of_header h, exec_transform_of_header h', ?_⟩
  rw [State.succeed_response, State.succeed_response, transformInto_congr hbytes s.resp s'.resp]

/-- Settles O28: each field of the second response, by the first response's field it comes from. -/
theorem transformOfItsOwnResponse : Obligations.TransformOfItsOwnResponse := by
  intro s w buf h
  refine ⟨_, exec_transform_of_header h, fun s' w' h' => ⟨_, exec_transform_of_header h', ?_⟩⟩
  refine ⟨?_, ?_, ?_, ?_, ?_, ?_⟩
  · rw [rd16_transformInto_source, rd16_transformInto_destination]
  · rw [rd16_transformInto_destination, rd16_transformInto_source]
  · rw [rd32_transformInto_sequence, rd32_transformInto_sequence, BitVec.add_assoc]
    rfl
  · rw [rd32_transformInto_acknowledgement, rd32_transformInto_sequence]
  · rw [transformInto_flagsByte _ (transformInto s.resp buf), transformInto_flagsByte,
      replyFlags_replyFlags]
  · have hopaque := transformInto_opaqueByte
    rw [hopaque _ _ 12 (by decide) (by decide), hopaque _ _ 12 (by decide) (by decide)]

end Sys2Proof.Machine

/-! # SETFLAGS (R83, R84, R86)

FLAGS_OUT is `editFlags` of the operands alone, so both statements come down to one byte, read bit by bit
(`editFlags_getLsbD`). -/

namespace Sys2Proof.Machine

/-- SETFLAGS answers with FLAGS_OUT, whatever word and request are outstanding (R83). -/
theorem exec_setFlags_of_executing {st : State} {w : Word} {req : List Byte}
    (h : st.phase = .executing w req) (f : Byte) (a s : Bool) :
    exec (.setFlags f a s) st = .next (st.succeed (.flags (editFlags f a s))) := by
  rw [exec_executing h, responseOf, setFlagsResponse, State.answer_ok]

/-- Two edits of masks that share no bit commute (R84). -/
theorem editMask_comm {mask mask' : Byte}
    (hdisjoint : ∀ i < 8, mask.getLsbD i = true → mask'.getLsbD i = false) (want want' : Bool) (f : Byte) :
    editMask mask want (editMask mask' want' f) = editMask mask' want' (editMask mask want f) := by
  apply BitVec.eq_of_getLsbD_eq
  intro i hi
  simp only [editMask_getLsbD _ _ _ i hi]
  cases hm : mask.getLsbD i with
  | false => simp
  | true => simp [hdisjoint i hi hm]

/-- A second edit leaves nothing of the first (R86). -/
theorem editFlags_editFlags (f : Byte) (a s a' s' : Bool) :
    editFlags (editFlags f a s) a' s' = editFlags f a' s' := by
  apply BitVec.eq_of_getLsbD_eq
  intro i hi
  simp only [editFlags_getLsbD _ _ _ i hi]
  by_cases h5 : i = 5
  · simp only [if_pos h5]
  · by_cases h4 : i = 4
    · simp only [if_neg h5, if_pos h4]
    · simp only [if_neg h5, if_neg h4]

/-- Settles O29: the closed form, each bit of it, and the edits in the other order, whose masks are disjoint. -/
theorem setFlagsEditsTwoBits : Obligations.SetFlagsEditsTwoBits := by
  intro st w req f a s h
  refine ⟨editFlags f a s, exec_setFlags_of_executing h f a s, editFlags_eq_closedForm f a s,
    editFlags_getLsbD f a s 5 (by decide), editFlags_getLsbD f a s 4 (by decide), ?_, ?_⟩
  · intro k hk h4 h5
    rw [editFlags_getLsbD f a s k hk, if_neg h5, if_neg h4]
  · exact editMask_comm (by decide) a s f

/-- Settles O30: the second command edits the first one's FLAGS_OUT, and the second edit wins. -/
theorem setFlagsLastEditWins : Obligations.SetFlagsLastEditWins := by
  intro st u w w' req req' f a s a' s' hst hu
  refine ⟨_, exec_setFlags_of_executing hst f a s, ⟨_, exec_setFlags_of_executing hu _ a s, ?_⟩, ?_⟩
  · rw [State.succeed_response, State.succeed_response, State.succeed_flags_flagsOut, editFlags_editFlags]
  · rw [exec_setFlags_of_executing hu, exec_setFlags_of_executing hu, State.succeed_flags_flagsOut,
      editFlags_editFlags]

end Sys2Proof.Machine

/-! # Which status a command gets (R89 to R92)

A word that is no command's is answered with ILLEGAL_COMMAND before any operand is read. A command's own response
function looks at the length of the request, and only that of DECODE or TRANSFORM. -/

namespace Sys2Proof

/-- A word that no row of the opcode table matches is no command's (R56, R90). -/
theorem decodeWord_ne_ok_of_no_row {w : Word} (hdec : w &&& 0xFFFF ≠ 0x0000) (htr : w &&& 0xFFFF ≠ 0x0001)
    (hset : w &&& 0x00F3 ≠ 0x0002) (i : Instr) : decodeWord w ≠ .ok i := by
  intro hi
  cases i with
  | decode => exact hdec ((and_fullMask w).trans (decodeWord_eq_ok_iff_eq_encode.1 hi))
  | transform => exact htr ((and_fullMask w).trans (decodeWord_eq_ok_iff_eq_encode.1 hi))
  | setFlags f a s =>
    exact hset ((and_setFlagsMask_eq_iff w).2 ((decodeWord_eq_setFlags_iff w f a s).1 hi).1)

end Sys2Proof

namespace Sys2Proof.Machine

/-- Settles O6: the step raises the error whatever request is latched, and nothing of the latched one survives
it. -/
theorem unassignedWordAnswersIllegalCommand : Obligations.UnassignedWordAnswersIllegalCommand := by
  intro s w req req' hphase hdec htr hset
  have hw : ∀ i, decodeWord w ≠ .ok i := decodeWord_ne_ok_of_no_row hdec htr hset
  refine ⟨s.raise .illegalCommand, step_of_not_legal hphase hw, rfl, State.raise_response _ s, rfl, ?_⟩
  rw [step_of_not_legal rfl hw, State.raise_of_phase]

/-! The response of a word, by the conditions of R92 in their order. -/

theorem wordResponse_of_not_legal (blank : Header) {w : Word} (req : List Byte)
    (hw : ∀ i, decodeWord w ≠ .ok i) : wordResponse blank w req = .error .illegalCommand := by
  rw [wordResponse]
  cases hd : decodeWord w with
  | ok i => exact absurd hd (hw i)
  | error e => rfl

theorem wordResponse_of_decodeWord_ok (blank : Header) {w : Word} {i : Instr} (req : List Byte)
    (hi : decodeWord w = .ok i) : wordResponse blank w req = responseOf blank i req := by
  rw [wordResponse, hi]

/-- The two operations that read the request check its length (R68, R80, R89). -/
theorem responseOf_of_length_ne (blank : Header) {i : Instr} {req : List Byte}
    (hi : i = .decode ∨ i = .transform) (hlen : req.length ≠ hdrLen) :
    responseOf blank i req = .error .malformedHeader := by
  obtain rfl | rfl := hi
  · exact decodeResponse_of_length_ne hlen
  · exact transformResponse_of_length_ne blank hlen

/-- Every command succeeds on twenty bytes (R91). -/
theorem responseOf_toList_status (blank buf : Header) (i : Instr) :
    (responseOf blank i buf.toList).status = .ok := by
  cases i with
  | decode => rw [responseOf, decodeResponse_toList, Response.ok_status]
  | transform => rw [responseOf, transformResponse_toList, Response.ok_status]
  | setFlags f a s => rfl

/-- Nothing but the length check makes a command fail (R91). -/
theorem responseOf_status_of_no_length_error (blank : Header) {i : Instr} {req : List Byte}
    (h : ¬ (i = .decode ∨ i = .transform) ∨ req.length = hdrLen) :
    (responseOf blank i req).status = .ok := by
  obtain ⟨buf, rfl⟩ | hne := header_or_length_ne req
  · exact responseOf_toList_status blank buf i
  · have hreads : ¬ (i = .decode ∨ i = .transform) := h.resolve_right hne
    cases i with
    | decode => exact absurd (.inl rfl) hreads
    | transform => exact absurd (.inr rfl) hreads
    | setFlags f a s => rfl

/-- Settles O10: the step answers with the response of the word, which checks the word before the length. -/
theorem oneStatusByPriority : Obligations.OneStatusByPriority := by
  intro s w req hphase
  refine ⟨_, _, step_executing hphase, State.answer_response _ s, ?_, ?_, ?_, ?_⟩
  · exact wordResponse_of_not_legal s.resp req
  · intro i hi hreads hlen
    rw [wordResponse_of_decodeWord_ok s.resp req hi, responseOf_of_length_ne s.resp hreads hlen]
  · intro i hi hpass
    rw [wordResponse_of_decodeWord_ok s.resp req hi, responseOf_status_of_no_length_error s.resp hpass]
  · rintro rfl -
    have herr : decodeWord 0x0003 = .error .reservedOperation := by decide
    rw [wordResponse_of_not_legal s.resp req fun i hi => nomatch herr.symm.trans hi]
    rfl

end Sys2Proof.Machine

/-! # Runs, reset and issue (R91, R104, R105, R113, R116)

A run follows the step, which always answers, so no run stops early. Reset and a finished command both leave a block
that waits, and a block that waits takes the next command. -/

namespace Sys2Proof.Machine

/-! Runs. -/

/-- A run of one more step is a run from the step's answer. -/
theorem core_run_succ {s t : State} (h : step s = .next t) (k : Nat) :
    Sys2Proof.core.run (k + 1) s = Sys2Proof.core.run k t := by
  have hstep : Sys2Proof.core.step s = .next t := h
  simp only [Host.Core.run, hstep]

/-- Settles O14, by induction on the number of steps: each of them answers next. -/
theorem everyRunOfStepsCompletes : Obligations.EveryRunOfStepsCompletes := by
  intro k
  induction k with
  | zero => exact fun s => ⟨s, rfl⟩
  | succ k ih =>
    intro s
    obtain ⟨t, hstep⟩ := exists_step_eq_next s
    obtain ⟨u, hrun⟩ := ih t
    exact ⟨u, (core_run_succ hstep k).trans hrun⟩

/-! The reset line. -/

theorem State.assertReset_not_executing (s : State) : s.assertReset.notExecuting := by
  simp [State.notExecuting]

@[simp] theorem State.assertReset_response (s : State) : s.assertReset.response = none :=
  State.response_idle (State.assertReset_phase s)

/-- Settles O34: the phase is idle after either reset, and an idle block shows no response. -/
theorem resetLeavesTheBlockIdle : Obligations.ResetLeavesTheBlockIdle :=
  ⟨rfl, State.response_idle rfl, fun s => ⟨State.assertReset_phase s, State.assertReset_response s⟩⟩

/-- Settles O35: a block after reset waits, so its step changes nothing and it takes the command again; both
responses are `Exec` of the same word and request. -/
theorem resetAbandonsTheOutstandingCommand : Obligations.ResetAbandonsTheOutstandingCommand := by
  intro s w req hphase
  have hwaits : s.assertReset.notExecuting := State.assertReset_not_executing s
  obtain ⟨t, hstep, ht, -⟩ := stepRefinesExec s w req hphase
  obtain ⟨u, hcommand, hu, -⟩ := State.command_refines hwaits ⟨w, req⟩
  exact ⟨State.assertReset_response s, step_not_executing hwaits, t, u, hstep, hcommand, hu.trans ht.symm⟩

/-! The issue. -/

/-- Settles O36: the two cases of an issue; the latched block is executing, so it shows no response. -/
theorem issueNeedsTheEarlierResponse : Obligations.IssueNeedsTheEarlierResponse :=
  ⟨fun _ _ _ hphase => State.issue_executing hphase, fun s hwaits =>
    ⟨s.latch, State.issue_not_executing hwaits, State.latch_phase s, State.latch_cmd s, State.latch_req s,
      State.response_executing (State.latch_phase s)⟩⟩

/-! The SETFLAGS statement. -/

/-- SETFLAGS of a literal is the command of that byte, and the host is as before it (R59). -/
theorem runAct_setFlags_lit (sys : System) (f : Byte) (a s : Bool) :
    runAct (.setFlags (.lit f) a s) sys = sys.command (State.writeCmd (encode (.setFlags f a s))) := by
  rw [runAct, System.value, andThen_next]

/-- Settles O48: the host collects the edited byte, which touches its view and none of its buffers. -/
theorem setFlagsStatementWritesNoBuffer : Obligations.SetFlagsStatementWritesNoBuffer := by
  intro sys f a s hidle
  obtain ⟨u, hu, -, hhost, -⟩ := System.command_setFlags hidle f a s
  have hrun : runStmt (.act (.setFlags (.lit f) a s)) sys = .next u.advance := by
    rw [runStmt, runAct_setFlags_lit, hu, andThen_next]
  refine ⟨u.advance, hrun, ?_, ?_⟩
  · rw [System.advance_buffers, hhost, HostState.collect_buffers]
  · rw [System.advance_view, hhost, HostState.collect_view]

end Sys2Proof.Machine
